-- ==== Sys2Proof/Word.lean ====
section
/-! DEFINITION. The word types of the block and the Colour value (00_scope.md R11, R14; 10_state.md R22). A duty
value, ticks high in one timer period (R14), is a plain Nat: its width is a parameter (R7), so that an entry of the Pulse
Buffer fits its width is an invariant and not a type. -/

namespace Sys2Proof

/-- A command word, the `CMD64` of 30_encoding.md R71. -/
abbrev Word := BitVec 64

/-- One colour channel: an 8-bit unsigned value (10_state.md R22). -/
abbrev Channel := BitVec 8

/-- The 32-bit immediate of a command word (30_encoding.md R71). -/
abbrev Imm := BitVec 32

/-- A response word (30_encoding.md R74). -/
abbrev Rsp := BitVec 32

/-- A Colour: three independent 8-bit channels (10_state.md R22, 00_scope.md R14). -/
structure Colour where
  r : Channel
  g : Channel
  b : Channel
deriving DecidableEq, Repr

/-- The zero Colour (40_colour_frame.md R92). -/
def black : Colour := ⟨0, 0, 0⟩

end Sys2Proof
end

