-- ==== Sys2Proof/Syntax.lean ====
section
/-! DEFINITION. The commands as abstract syntax: one constructor per row of spec/opcode_table.json
(30_encoding.md R70). Operands range over everything the abstract rules range over; what a command word can carry is
`Instr.wf` (WellFormed.lean). -/

namespace Sys2Proof

/-- The commands of 30_encoding.md R70. The Frame and the Pulse Buffer are implicit operands (R70). -/
inductive Instr where
  /-- NEWF, `new_frame()` (40_colour_frame.md R91) -/
  | newf
  /-- CLRF, `clear_frame(frame)` (40_colour_frame.md R92) -/
  | clrf
  /-- FILLF, `fill_frame(frame, colour)` (40_colour_frame.md R93) -/
  | fillf (c : Colour)
  /-- SETPX, `set_pixel(frame, index, colour)`; the index is any integer (40_colour_frame.md R94) -/
  | setpx (c : Colour) (index : Int)
  /-- MKCOL, `make_colour(r, g, b)` (40_colour_frame.md R90) -/
  | mkcol (c : Colour)
  /-- HUE2RGB, `hue_to_rgb(hue)`; the hue is any integer (41_hue.md R100) -/
  | hue2rgb (hue : Int)
  /-- ENCODE, `encode(frame)` (42_encoder.md R110) -/
  | encode
  /-- TRANSMIT, `transmit(pulses)` (43_synchronizer.md R120) -/
  | transmit
  /-- TSTCANCEL (44_pattern_sequencer.md R140) -/
  | tstcancel
  /-- CLRCANCEL (44_pattern_sequencer.md R141) -/
  | clrcancel
  /-- DELAY, `delay(milliseconds)` (44_pattern_sequencer.md R142) -/
  | delay (ms : Nat)
  /-- PAT_CYCLE (44_pattern_sequencer.md R145) -/
  | patCycle
  /-- PAT_RAINBOW (44_pattern_sequencer.md R147) -/
  | patRainbow
deriving DecidableEq, Repr

end Sys2Proof
end

