-- ==== Sys2Proof/WellFormed.lean ====
section
/-! DEFINITION. Which commands a command word can carry (30_encoding.md R72). Colour channels are in range by type
(93_implementation_defined.md U14). -/

namespace Sys2Proof

/-- An index a command word can carry: `zext(imm)` (30_encoding.md R72, decision D31). -/
def indexFits (i : Int) : Bool := decide (0 ≤ i ∧ i < 2 ^ 32)

/-- A hue a command word can carry: `sext(imm)` (30_encoding.md R72). -/
def hueFits (h : Int) : Bool := decide (-2 ^ 31 ≤ h ∧ h < 2 ^ 31)

/-- A delay a command word can carry: `zext(imm)` (30_encoding.md R72). -/
def millisecondsFit (ms : Nat) : Bool := decide (ms < 2 ^ 32)

/-- Every operand of the command fits its field. -/
def Instr.wf : Instr → Bool
  | .newf => true
  | .clrf => true
  | .fillf _ => true
  | .setpx _ index => indexFits index
  | .mkcol _ => true
  | .hue2rgb hue => hueFits hue
  | .encode => true
  | .transmit => true
  | .tstcancel => true
  | .clrcancel => true
  | .delay ms => millisecondsFit ms
  | .patCycle => true
  | .patRainbow => true

end Sys2Proof
end

