-- ==== Sys2Proof/Decode.lean ====
section
/-! DEFINITION. The command encoding of 30_encoding.md Part B and Part C: the decoder, total on every word and
rejecting by name, the encoder, the opcode table's rows, and the printed form of a command. -/

namespace Sys2Proof

/-- The mnemonics of 30_encoding.md R70, without operands. -/
inductive Opcode where
  | newf | clrf | fillf | setpx | mkcol | hue2rgb | encode | transmit | tstcancel | clrcancel | delay | patCycle
  | patRainbow
deriving DecidableEq, Repr

namespace Opcode

/-- The opcode column of 30_encoding.md R70. -/
def code : Opcode → BitVec 8
  | newf => 0x01
  | clrf => 0x02
  | fillf => 0x03
  | setpx => 0x04
  | mkcol => 0x05
  | hue2rgb => 0x06
  | encode => 0x10
  | transmit => 0x11
  | tstcancel => 0x20
  | clrcancel => 0x21
  | delay => 0x22
  | patCycle => 0x30
  | patRainbow => 0x31

/-- Every opcode, in the table's order. -/
def all : List Opcode :=
  [newf, clrf, fillf, setpx, mkcol, hue2rgb, encode, transmit, tstcancel, clrcancel, delay, patCycle, patRainbow]

/-- The opcode a field value names, if any. -/
def ofCode (v : BitVec 8) : Option Opcode := all.find? (fun o => o.code == v)

/-- The mnemonic as spec/opcode_table.json spells it. -/
def mnemonic : Opcode → String
  | newf => "NEWF"
  | clrf => "CLRF"
  | fillf => "FILLF"
  | setpx => "SETPX"
  | mkcol => "MKCOL"
  | hue2rgb => "HUE2RGB"
  | encode => "ENCODE"
  | transmit => "TRANSMIT"
  | tstcancel => "TSTCANCEL"
  | clrcancel => "CLRCANCEL"
  | delay => "DELAY"
  | patCycle => "PAT_CYCLE"
  | patRainbow => "PAT_RAINBOW"

/-- The mask and match columns of 30_encoding.md R73. -/
def maskMatch : Opcode → Word × Word
  | newf => (0xFFFFFFFFFFFFFFFF, 0x0100000000000000)
  | clrf => (0xFFFFFFFFFFFFFFFF, 0x0200000000000000)
  | fillf => (0xFF000000FFFFFFFF, 0x0300000000000000)
  | setpx => (0xFF00000000000000, 0x0400000000000000)
  | mkcol => (0xFF000000FFFFFFFF, 0x0500000000000000)
  | hue2rgb => (0xFFFFFFFF00000000, 0x0600000000000000)
  | encode => (0xFFFFFFFFFFFFFFFF, 0x1000000000000000)
  | transmit => (0xFFFFFFFFFFFFFFFF, 0x1100000000000000)
  | tstcancel => (0xFFFFFFFFFFFFFFFF, 0x2000000000000000)
  | clrcancel => (0xFFFFFFFFFFFFFFFF, 0x2100000000000000)
  | delay => (0xFFFFFFFF00000000, 0x2200000000000000)
  | patCycle => (0xFFFFFFFFFFFFFFFF, 0x3000000000000000)
  | patRainbow => (0xFFFFFFFFFFFFFFFF, 0x3100000000000000)

end Opcode

/-- The command's row of 30_encoding.md R70. -/
def Instr.opcode : Instr → Opcode
  | .newf => .newf
  | .clrf => .clrf
  | .fillf _ => .fillf
  | .setpx _ _ => .setpx
  | .mkcol _ => .mkcol
  | .hue2rgb _ => .hue2rgb
  | .encode => .encode
  | .transmit => .transmit
  | .tstcancel => .tstcancel
  | .clrcancel => .clrcancel
  | .delay _ => .delay
  | .patCycle => .patCycle
  | .patRainbow => .patRainbow

/-! The fields of `CMD64` (30_encoding.md R71). -/

/-- `op`, bits 63 to 56. -/
def opField (C : Word) : BitVec 8 := C.extractLsb' 56 8

/-- `cr`, `cg`, `cb`, bits 55 to 32, as the colour operand (30_encoding.md R71, R72). -/
def colourField (C : Word) : Colour := ⟨C.extractLsb' 48 8, C.extractLsb' 40 8, C.extractLsb' 32 8⟩

/-- `imm`, bits 31 to 0. -/
def immField (C : Word) : Imm := C.extractLsb' 0 32

/-- A command word from its fields (30_encoding.md R71). -/
def packWord (op : BitVec 8) (c : Colour) (imm : Imm) : Word := op ++ c.r ++ c.g ++ c.b ++ imm

/-! Operand assembly from the immediate and back (30_encoding.md R72). -/

/-- *index*: `zext(imm)`. -/
def indexOfImm (imm : Imm) : Int := imm.toNat

/-- *hue*: `sext(imm)`. -/
def hueOfImm (imm : Imm) : Int := imm.toInt

/-- *milliseconds*: `zext(imm)`. -/
def millisecondsOfImm (imm : Imm) : Nat := imm.toNat

/-- The immediate that carries an integer operand. -/
def immOfInt (i : Int) : Imm := BitVec.ofInt 32 i

/-- The immediate that carries a natural operand. -/
def immOfNat (n : Nat) : Imm := BitVec.ofNat 32 n

/-- Why a word is an illegal command (30_encoding.md R75): its opcode is not assigned, or a reserved field is not
zero. The block answers each with the same status. -/
inductive Illegal where
  | unassignedOpcode (op : BitVec 8)
  | reservedColour
  | reservedImm
deriving DecidableEq, Repr

/-- Rejects a non-zero reserved colour field (30_encoding.md R75). -/
def colourReserved (C : Word) (k : Except Illegal Instr) : Except Illegal Instr :=
  if colourField C = black then k else .error .reservedColour

/-- Rejects a non-zero reserved immediate (30_encoding.md R75). -/
def immReserved (C : Word) (k : Except Illegal Instr) : Except Illegal Instr :=
  if immField C = 0 then k else .error .reservedImm

/-- A command with no operand: both fields are reserved. -/
def bare (C : Word) (i : Instr) : Except Illegal Instr := colourReserved C (immReserved C (.ok i))

/-- The decoder (30_encoding.md R71 to R73, R75). -/
def decode (C : Word) : Except Illegal Instr :=
  match Opcode.ofCode (opField C) with
  | none => .error (.unassignedOpcode (opField C))
  | some .newf => bare C .newf
  | some .clrf => bare C .clrf
  | some .fillf => immReserved C (.ok (.fillf (colourField C)))
  | some .setpx => .ok (.setpx (colourField C) (indexOfImm (immField C)))
  | some .mkcol => immReserved C (.ok (.mkcol (colourField C)))
  | some .hue2rgb => colourReserved C (.ok (.hue2rgb (hueOfImm (immField C))))
  | some .encode => bare C .encode
  | some .transmit => bare C .transmit
  | some .tstcancel => bare C .tstcancel
  | some .clrcancel => bare C .clrcancel
  | some .delay => colourReserved C (.ok (.delay (millisecondsOfImm (immField C))))
  | some .patCycle => bare C .patCycle
  | some .patRainbow => bare C .patRainbow

/-- The colour field a command's word carries (30_encoding.md R73). -/
def Instr.colourOperand : Instr → Colour
  | .newf => black
  | .clrf => black
  | .fillf c => c
  | .setpx c _ => c
  | .mkcol c => c
  | .hue2rgb _ => black
  | .encode => black
  | .transmit => black
  | .tstcancel => black
  | .clrcancel => black
  | .delay _ => black
  | .patCycle => black
  | .patRainbow => black

/-- The immediate a command's word carries (30_encoding.md R73). -/
def Instr.immOperand : Instr → Imm
  | .newf => 0
  | .clrf => 0
  | .fillf _ => 0
  | .setpx _ index => immOfInt index
  | .mkcol _ => 0
  | .hue2rgb hue => immOfInt hue
  | .encode => 0
  | .transmit => 0
  | .tstcancel => 0
  | .clrcancel => 0
  | .delay ms => immOfNat ms
  | .patCycle => 0
  | .patRainbow => 0

/-- The word of a well-formed command (30_encoding.md R71 to R73). -/
def encode (i : Instr) : Word := packWord i.opcode.code i.colourOperand i.immOperand

/-- A word is the command of a row when `C AND mask = match` (30_encoding.md R73). -/
def rowMatches (o : Opcode) (C : Word) : Bool := C &&& o.maskMatch.1 == o.maskMatch.2

/-- The instruction this decoder reads from an instruction of `nbits` bits numbered as spec/opcode_table.json numbers
them. Every command is one 64-bit word (30_encoding.md R71), so the bits above `nbits` are zero and nothing longer
than 64 bits is a command. -/
def decodeTableWord (nbits w : Nat) : Option Instr :=
  if nbits ≤ 64 then (decode (BitVec.ofNat 64 (w % 2 ^ nbits))).toOption else none

/-! Assembler syntax (30_encoding.md R77, R78). -/

/-- A colour as the spec prints it: `(r, g, b)` in decimal (30_encoding.md R77). -/
def Colour.asm (c : Colour) : String :=
  "(" ++ toString c.r.toNat ++ ", " ++ toString c.g.toNat ++ ", " ++ toString c.b.toNat ++ ")"

/-- A command as the spec prints it: the mnemonic, the colour, then the immediate in decimal (30_encoding.md R77). -/
def Instr.asm (i : Instr) : String :=
  match i with
  | .newf => i.opcode.mnemonic
  | .clrf => i.opcode.mnemonic
  | .fillf c => i.opcode.mnemonic ++ " " ++ c.asm
  | .setpx c index => i.opcode.mnemonic ++ " " ++ c.asm ++ ", " ++ toString index
  | .mkcol c => i.opcode.mnemonic ++ " " ++ c.asm
  | .hue2rgb hue => i.opcode.mnemonic ++ " " ++ toString hue
  | .encode => i.opcode.mnemonic
  | .transmit => i.opcode.mnemonic
  | .tstcancel => i.opcode.mnemonic
  | .clrcancel => i.opcode.mnemonic
  | .delay ms => i.opcode.mnemonic ++ " " ++ toString ms
  | .patCycle => i.opcode.mnemonic
  | .patRainbow => i.opcode.mnemonic

/-- The pseudo-instruction SHOW: ENCODE, then TRANSMIT (30_encoding.md R78). It has no word of its own. -/
def showExpansion : List Instr := [.encode, .transmit]

end Sys2Proof
end

