-- ==== Sys2Proof/Config.lean ====
section
/-! DEFINITION. The implementation parameters of 00_scope.md R7 to R9, and the free values: constants with no body
for what the spec leaves open. -/

namespace Sys2Proof

/-- Whose step comes next (00_scope.md R10, R13). The interrupt context has no turn of its own: the completion
handler is part of engine step X2 and the cancellation handler part of the button press (43_synchronizer.md R128,
60_exceptions.md R167, R171). -/
inductive Turn where
  /-- the mainline: one step of the command in progress, or the next command of the host -/
  | mainline
  /-- the transfer engine: step X1 or X2, whichever is enabled (43_synchronizer.md R127, R128) -/
  | engine
  /-- the transfer engine hangs: step X3 (43_synchronizer.md R129) -/
  | engineHang
  /-- the cancellation notification (60_exceptions.md R167) -/
  | button
deriving DecidableEq, Repr, Inhabited

/-- The parameters of 00_scope.md R7 that may differ between implementations; fixed during a run
(70_reset_and_hazards.md R192). -/
structure Config where
  /-- `N`, the number of LEDs -/
  leds : Nat
  /-- `RESET_PULSES` -/
  resetPulses : Nat
  /-- `PERIOD`, timer ticks in one period -/
  period : Nat
  /-- `DUTY_HIGH`, the duty value of a 1 bit -/
  dutyHigh : Nat
  /-- `DUTY_LOW`, the duty value of a 0 bit -/
  dutyLow : Nat
  /-- `DUTY_BITS`, width of one Pulse Buffer entry -/
  dutyBits : Nat
  /-- `TIMEOUT_POLLS`; `none` is `INF` -/
  timeoutPolls : Option Nat
  /-- `CYCLE_DWELL_MS` -/
  cycleDwellMs : Nat
  /-- `RAINBOW_STEP_MS` -/
  rainbowStepMs : Nat
deriving DecidableEq, Repr

namespace Config

/-- `BITS_PER_LED`, fixed by the source (00_scope.md R7). -/
def bitsPerLed : Nat := 24

/-- `DUTY_ZERO`, fixed by the source's wording (00_scope.md R7). -/
def dutyZero : Nat := 0

/-- `L`, the length of the Pulse Buffer (00_scope.md R8). -/
def bufferLen (c : Config) : Nat := 2 * c.resetPulses + bitsPerLed * c.leds

/-- The constraints on a configuration: `N >= 1` and `TIMEOUT_POLLS >= 1` (00_scope.md R7), the duty values (R9),
`2^DUTY_BITS > PERIOD` (R7, decision D5), and `N <= 2^32` (decision D31). -/
abbrev wf (c : Config) : Prop :=
  1 ≤ c.leds ∧ c.leds ≤ 2 ^ 32 ∧
  dutyZero < c.dutyLow ∧ c.dutyLow < c.dutyHigh ∧ c.dutyHigh ≤ c.period ∧ c.dutyHigh = 2 * c.dutyLow ∧
  c.period < 2 ^ c.dutyBits ∧
  c.timeoutPolls ≠ some 0

/-- The three entry values of the symbol table (30_encoding.md R64). -/
abbrev isSymbol (c : Config) (d : Nat) : Prop := d = dutyZero ∨ d = c.dutyLow ∨ d = c.dutyHigh

/-! The free values. None has a body, so no proof can learn what one is. -/

/-- `N - 1` of the chip that `State.reset` describes: `N` is OPEN (00_scope.md R7, decision D3; log entry 4). -/
opaque freeLeds : BitVec 32

/-- `TIMEOUT_POLLS`, less one where it is finite, of that chip: OPEN (decision D6; log entry 4). -/
opaque freeTimeout : Option Nat

/-- `CYCLE_DWELL_MS` of that chip: OPEN (decision D26; log entry 4). -/
opaque freeCycleDwellMs : Nat

/-- `RAINBOW_STEP_MS` of that chip: OPEN (decision D26; log entry 4). -/
opaque freeRainbowStepMs : Nat

/-- `cancel` at reset: unspecified, drawn freely (10_state.md R26, 70_reset_and_hazards.md R191; log entry 5). -/
opaque freeCancel : Bool

/-- What entry `j` of the Pulse Buffer holds at reset, before it is cut to the entry's width: unspecified
(10_state.md R23, 70_reset_and_hazards.md R191; log entry 6). -/
opaque freePulse : Nat → Nat

/-- Whose turn it is at step `t` when no turn is already decided: the spec gives no order to the agents' steps
(00_scope.md R13; log entry 1). -/
opaque freeTurn : Nat → Turn

/-- The configuration of `State.reset`: the reference values for the fixed parameters and free values for the OPEN
ones (00_scope.md R7; log entry 4). -/
def chip : Config where
  leds := freeLeds.toNat + 1
  resetPulses := 300
  period := 60
  dutyHigh := 30
  dutyLow := 15
  dutyBits := 16
  timeoutPolls := freeTimeout.map (· + 1)
  cycleDwellMs := freeCycleDwellMs
  rainbowStepMs := freeRainbowStepMs

end Config

end Sys2Proof
end

