-- ==== Sys2Proof/Machine/State.lean ====
section
/-! DEFINITION. The state of the block, its agents and its host interface (10_state.md), the reasons a step can stop,
and the state after reset (70_reset_and_hazards.md R191). -/

namespace Sys2Proof.Machine

/-- The result of a command: `Ok` or one error of the taxonomy (60_exceptions.md R161). -/
inductive Status where
  | ok
  | indexOutOfRange
  | transmissionTimeout
  /-- never raised; its code is reserved (60_exceptions.md R164) -/
  | invalidHue
  | illegalCommand
deriving DecidableEq, Repr

/-- The phase of the Transmission Synchronizer (10_state.md R27). -/
inductive Sync where
  /-- `S_IDLE`: no TRANSMIT is in progress -/
  | idle
  /-- `S_ARMED`: `done` is cleared, the engine is not yet called -/
  | armed
  /-- `S_WAIT(n)`: the engine is called and `n` polls found `done = 0`; `none` is `S_WAIT` without a count, which is
  not kept when `TIMEOUT_POLLS` is `INF` (45_arithmetic_control_access.md R152 (g)) -/
  | wait (polls : Option Nat)
deriving DecidableEq, Repr

/-- The state of the transfer engine (10_state.md R28). -/
inductive Xfer where
  /-- `X_IDLE`: no transfer is in flight -/
  | idle
  /-- `X_BUSY(k)`: entries `0..k-1` of the Pulse Buffer are emitted -/
  | busy (k : Nat)
  /-- `X_HUNG(k)`: the transfer stopped for good after `k` entries -/
  | hung (k : Nat)
deriving DecidableEq, Repr

/-- The colours the Cycle pattern shows (44_pattern_sequencer.md R145). -/
inductive CycleColour where
  | red
  | green
  | blue
deriving DecidableEq, Repr

/-- The place inside one iteration of the pattern loop (44_pattern_sequencer.md R143): the next thing the mainline
does. -/
inductive PatPoint where
  | fill
  | encode
  | transmit
  | delay
  | check
deriving DecidableEq, Repr

/-- What the mainline is in the middle of. A pattern's loop variable is a local that lives only while the pattern runs
(10_state.md R32); it is held here because other agents step in between. -/
inductive Activity where
  /-- no command is in progress: the next one is accepted (10_state.md R21) -/
  | host
  /-- a TRANSMIT the host issued (43_synchronizer.md R120) -/
  | transmit
  /-- PAT_CYCLE, showing this colour (44_pattern_sequencer.md R145) -/
  | cycle (c : CycleColour) (p : PatPoint)
  /-- PAT_RAINBOW, at this hue (44_pattern_sequencer.md R147) -/
  | rainbow (h : Fin 1536) (p : PatPoint)
deriving DecidableEq, Repr

/-- Everything the spec gives the machine (10_state.md section 1), the place inside a command in progress, and the
model's own record of the outside world: the commands the host will issue, the responses it got, and whose turn it
is. -/
structure State where
  /-- the parameters of 00_scope.md R7, constant for a run (70_reset_and_hazards.md R192) -/
  cfg : Config
  /-- the Frame store `F`, element 0 first (10_state.md R22) -/
  frame : List Colour
  /-- the Pulse Buffer `P`, entry 0 first (10_state.md R23) -/
  pulse : List Nat
  /-- `P` holds the output of an ENCODE (10_state.md R24) -/
  pvalid : Bool
  /-- a TRANSMIT has timed out since reset (10_state.md R34) -/
  txfault : Bool
  /-- the completion signal (10_state.md R25) -/
  done : Bool
  /-- the cancellation signal (10_state.md R26) -/
  cancel : Bool
  /-- the Synchronizer's phase (10_state.md R27) -/
  sync : Sync
  /-- the transfer engine (10_state.md R28) -/
  xfer : Xfer
  /-- the duty values emitted since reset, oldest first (10_state.md R30) -/
  wire : List Nat
  /-- the command in progress (10_state.md R21, 44_pattern_sequencer.md R143) -/
  run : Activity
  /-- the model's own: the command words the host has yet to issue, in its order (20_memory.md R56; log entry 2) -/
  pending : List Word
  /-- the model's own: the responses returned since reset, oldest first (30_encoding.md R74; log entry 3) -/
  responses : List Rsp
  /-- the model's own: the turns already decided, next first (00_scope.md R13; log entry 1) -/
  turns : List Turn
  /-- the model's own: steps taken, the argument of `Config.freeTurn` (log entry 1) -/
  tick : Nat
deriving DecidableEq, Repr

/-- The canonical form of the two memories: exactly `N` Colours and exactly `L` duty values (10_state.md R22, R23).
An element's place in its list is its index (20_memory.md R40), so equal memories are equal lists (log entry 7). -/
abbrev Memory.wf (c : Config) (frame : List Colour) (pulse : List Nat) : Prop :=
  frame.length = c.leds ∧ pulse.length = c.bufferLen

/-- The behaviours to which the spec gives no meaning: "a fault of the model, not an error code of the block". All are
safe: the model stops and no claim about what follows can be proved. -/
inductive Fault where
  /-- raised by ENCODE when `txfault` is 1 (42_encoder.md R115; 93_implementation_defined.md U9); safe -/
  | encodeAfterTimeout
  /-- raised by TRANSMIT when `txfault` is 1 (43_synchronizer.md R121; U9); safe -/
  | transmitAfterTimeout
  /-- raised by TRANSMIT when `pvalid` is 0 (43_synchronizer.md R121; U10); safe -/
  | transmitBeforeEncode
  /-- raised by PAT_CYCLE and PAT_RAINBOW issued when `txfault` is 1 (43_synchronizer.md R125; U9); safe -/
  | patternAfterTimeout
  /-- raised by step T2 of TRANSMIT when the engine is not idle (43_synchronizer.md R131; U15); safe, and no state
  that meets the invariant reaches it -/
  | startTransferNotIdle
deriving DecidableEq, Repr

/-- Reasons to refuse a command. -/
inductive Refusal where
  /-- raised by `exec` for a command with no meaning yet; safe. No arm uses it. -/
  | notModelled (mnemonic : String)
deriving DecidableEq, Repr

namespace State

/-- The state after reset (70_reset_and_hazards.md R191), for any configuration and any value of what R191 leaves
unspecified: `cancel` and the contents of the Pulse Buffer. -/
def powerOn (cfg : Config) (cancel : Bool) (pulse : List Nat) : State where
  cfg := cfg
  frame := List.replicate cfg.leds black
  pulse := pulse
  pvalid := false
  txfault := false
  done := false
  cancel := cancel
  sync := .idle
  xfer := .idle
  wire := []
  run := .host
  pending := []
  responses := []
  turns := []
  tick := 0

/-- The machine right after reset, the unspecified values drawn freely (70_reset_and_hazards.md R191; log entries 4, 5
and 6). -/
def reset : State :=
  powerOn Config.chip Config.freeCancel
    ((List.range Config.chip.bufferLen).map (fun j => Config.freePulse j % 2 ^ Config.chip.dutyBits))

end State

end Sys2Proof.Machine
end

