-- ==== Sys2Proof/Machine/Flags.lean ====
section
/-! DEFINITION. The two one-bit flags and their three atomic operations each (20_memory.md R50), and the two
interrupt notifications, which are their only sets (60_exceptions.md R166, R167). The block has no condition codes
(10_state.md section 1). -/

namespace Sys2Proof.Machine

/-- Atomic test of the completion signal. -/
def testDone (s : State) : Bool := s.done

/-- Atomic clear of the completion signal. -/
def clearDone (s : State) : State := { s with done := false }

/-- Atomic set of the completion signal. -/
def setDone (s : State) : State := { s with done := true }

/-- Atomic test of the cancellation signal. -/
def testCancel (s : State) : Bool := s.cancel

/-- Atomic clear of the cancellation signal. -/
def clearCancel (s : State) : State := { s with cancel := false }

/-- Atomic set of the cancellation signal. -/
def setCancel (s : State) : State := { s with cancel := true }

/-- The completion notification: one atomic set and nothing else (60_exceptions.md R166). -/
def completionNotification (s : State) : State := setDone s

/-- The cancellation notification: one atomic set and nothing else (60_exceptions.md R167). -/
def cancellationNotification (s : State) : State := setCancel s

end Sys2Proof.Machine
end

