-- ==== Sys2Proof/Machine/Operands.lean ====
section
/-! DEFINITION. The operand forms as the commands use them, the two orders in which a Colour is laid out, and the
response word. -/

namespace Sys2Proof.Machine

/-- The range check of the one host-supplied address: `0 <= idx < N` (40_colour_frame.md R94, 20_memory.md R46). -/
def indexInRange (cfg : Config) (index : Int) : Bool := decide (0 ≤ index ∧ index < cfg.leds)

/-- A Colour from channel values computed exactly; every value the block presents is in `[0, 255]`
(45_arithmetic_control_access.md R152). -/
def rgb (r g b : Nat) : Colour := ⟨BitVec.ofNat 8 r, BitVec.ofNat 8 g, BitVec.ofNat 8 b⟩

/-- The Colour in the response's order, Red most significant (30_encoding.md R74). -/
def colourValue (c : Colour) : BitVec 24 := c.r ++ c.g ++ c.b

/-- The 24-bit word of one LED in transmission order: Green, Red, Blue (30_encoding.md R61). -/
def grbWord (c : Colour) : BitVec 24 := c.g ++ c.r ++ c.b

/-- The Colour whose transmission word this is (30_encoding.md R68). -/
def colourOfGrb (w : BitVec 24) : Colour := ⟨w.extractLsb' 8 8, w.extractLsb' 16 8, w.extractLsb' 0 8⟩

/-- A flag as a response value: bit 0 is the flag and the other bits are 0 (30_encoding.md R74). -/
def bitValue (b : Bool) : BitVec 24 := if b then 1 else 0

/-- The error codes (60_exceptions.md R161). -/
def Status.code : Status → BitVec 8
  | .ok => 0
  | .indexOutOfRange => 1
  | .transmissionTimeout => 2
  | .invalidHue => 3
  | .illegalCommand => 4

/-- The response word: status in bits 31 to 24, value in bits 23 to 0 (30_encoding.md R74). -/
def responseWord (st : Status) (value : BitVec 24) : Rsp := st.code ++ value

end Sys2Proof.Machine
end

