-- ==== Sys2Proof/Machine/Ops.lean ====
section
/-! DEFINITION. The named operations over the two memories, the response (returning and raising), and the call to the
transfer engine. -/

namespace Sys2Proof.Machine

/-- Go on with the result of a step that has one; a fault or a refusal stands. -/
def andThen {α β : Type} (o : Host.Outcome α Fault Refusal) (k : α → Host.Outcome β Fault Refusal) :
    Host.Outcome β Fault Refusal :=
  match o with
  | .next a => k a
  | .fault f => .fault f
  | .refused r => .refused r

/-! ## The Frame store: whole elements by index (20_memory.md R40, R47) -/

/-- `F[i]`; an index outside `0..N-1` has no element. -/
def readFrame (i : Nat) (s : State) : Option Colour := s.frame[i]?

/-- `F[i] <- c`, every other element as before (40_colour_frame.md R94). -/
def writeFrame (i : Nat) (c : Colour) (s : State) : State := { s with frame := s.frame.set i c }

/-- `for i in 0 .. N-1: F[i] <- c` (40_colour_frame.md R93). -/
def fillFrame (c : Colour) (s : State) : State := { s with frame := List.replicate s.cfg.leds c }

/-! ## The Pulse Buffer (10_state.md R23) -/

/-- `P[j]`; an index outside `0..L-1` has no entry. -/
def readPulse (j : Nat) (s : State) : Option Nat := s.pulse[j]?

/-- Write every entry of the one Pulse Buffer (20_memory.md R47). -/
def writePulse (p : List Nat) (s : State) : State := { s with pulse := p }

/-! ## Returning to the host (30_encoding.md R74, 60_exceptions.md R160) -/

/-- End the command: the host gets one response word and the mainline awaits the next command. -/
def respond (st : Status) (value : BitVec 24) (s : State) : State :=
  { s with run := .host, responses := s.responses ++ [responseWord st value] }

/-- `return Ok(v)`; a command with no result returns value 0 (decision D33). -/
def returnOk (value : BitVec 24) (s : State) : State := respond .ok value s

/-- `raise <Error>`: the command ends at once with the error as its result. Nothing is saved, no mode changes and no
handler is entered (60_exceptions.md R160); the value is 0 (30_encoding.md R74). -/
def raise (e : Status) (s : State) : State := respond e 0 s

/-- The result of an illegal command word: `IllegalCommand`, no state change (30_encoding.md R75, 60_exceptions.md
R165). -/
def illegalCommand (s : State) : State := raise .illegalCommand s

/-! ## The calls out of the block -/

/-- `StartTransfer(P, L)`: asynchronous, returns at once. On an engine that is not idle it has no meaning
(43_synchronizer.md R126, R131). -/
def startTransfer (s : State) : Host.Outcome State Fault Refusal :=
  match s.xfer with
  | .idle => .next { s with xfer := .busy 0 }
  | .busy _ => .fault .startTransferNotIdle
  | .hung _ => .fault .startTransferNotIdle

/-- `delay(ms)`: no effect on the state; the other agents step before and after it (44_pattern_sequencer.md R142; log
entry 9). -/
def waitMilliseconds (_ms : Nat) (s : State) : State := s

end Sys2Proof.Machine
end

