-- ==== Sys2Proof/Machine/Encoder.lean ====
section
/-! DEFINITION. The Frame Encoder (42_encoder.md) and the wire encoding it produces (30_encoding.md Part A), with the
inverse the spec gives for tests (R68). -/

namespace Sys2Proof.Machine

/-- `Sym`: one protocol bit as a duty value (30_encoding.md R63). -/
def sym (cfg : Config) (bit : Bool) : Nat := if bit then cfg.dutyHigh else cfg.dutyLow

/-- `Word(c)`: the 24 entries of one LED, bit 23 of its GRB word first (30_encoding.md R62, R65). -/
def ledEntries (cfg : Config) (c : Colour) : List Nat :=
  (List.range Config.bitsPerLed).map (fun t => sym cfg ((grbWord c).getLsbD (23 - t)))

/-- `DUTY_ZERO^RESET_PULSES` (30_encoding.md R65). -/
def resetEntries (cfg : Config) : List Nat := List.replicate cfg.resetPulses Config.dutyZero

/-- `Enc(F)`: lead reset, the LEDs in wiring order, trail reset (30_encoding.md R65, 42_encoder.md R111). -/
def encodeList (cfg : Config) (frame : List Colour) : List Nat :=
  resetEntries cfg ++ frame.flatMap (ledEntries cfg) ++ resetEntries cfg

/-- The effect of ENCODE on the state: `P <- Enc(F)` and `pvalid <- 1`; no meaning after a timeout (42_encoder.md R111,
R113, R115). -/
def encodeFrame (s : State) : Host.Outcome State Fault Refusal :=
  if s.txfault then .fault .encodeAfterTimeout
  else .next { writePulse (encodeList s.cfg s.frame) s with pvalid := true }

/-- ENCODE (42_encoder.md R110). -/
def execEncode (s : State) : Host.Outcome State Fault Refusal :=
  andThen (encodeFrame s) (fun s' => .next (returnOk 0 s'))

/-! ## The inverse (30_encoding.md R68) -/

/-- `Dec`: a data entry back to its bit; no other entry stands for a bit. -/
def symBit (cfg : Config) (d : Nat) : Option Bool :=
  if d = cfg.dutyHigh then some true else if d = cfg.dutyLow then some false else none

/-- The bits of a list of data entries, in the same order. -/
def entryBits (cfg : Config) : List Nat → Option (List Bool)
  | [] => some []
  | d :: ds =>
    match symBit cfg d, entryBits cfg ds with
    | some b, some bs => some (b :: bs)
    | _, _ => none

/-- The number whose bits these are, the first the most significant. -/
def bitsValue (bs : List Bool) : Nat := bs.foldl (fun acc b => 2 * acc + b.toNat) 0

/-- One LED's Colour from its 24 entries. -/
def ledOfEntries (cfg : Config) (ds : List Nat) : Option Colour :=
  if ds.length = Config.bitsPerLed then
    (entryBits cfg ds).map (fun bs => colourOfGrb (BitVec.ofNat 24 (bitsValue bs)))
  else none

/-- The Colours of the first `n` LEDs of a data region. -/
def ledsOfEntries (cfg : Config) : Nat → List Nat → Option (List Colour)
  | 0, _ => some []
  | n + 1, ds =>
    match ledOfEntries cfg (ds.take Config.bitsPerLed), ledsOfEntries cfg n (ds.drop Config.bitsPerLed) with
    | some c, some cs => some (c :: cs)
    | _, _ => none

/-- The Frame one transfer's output carries (30_encoding.md R68). -/
def decodeTransfer (cfg : Config) (w : List Nat) : Option (List Colour) :=
  ledsOfEntries cfg cfg.leds (w.drop cfg.resetPulses)

end Sys2Proof.Machine
end

