-- ==== Sys2Proof/Machine/Frame.lean ====
section
/-! DEFINITION. The colour and frame commands (40_colour_frame.md). -/

namespace Sys2Proof.Machine

/-- NEWF (40_colour_frame.md R91): the Frame store exists from reset, so the effect is that of CLRF. -/
def execNewf (s : State) : Host.Outcome State Fault Refusal := .next (returnOk 0 (fillFrame black s))

/-- CLRF (40_colour_frame.md R92). -/
def execClrf (s : State) : Host.Outcome State Fault Refusal := .next (returnOk 0 (fillFrame black s))

/-- FILLF (40_colour_frame.md R93). -/
def execFillf (c : Colour) (s : State) : Host.Outcome State Fault Refusal := .next (returnOk 0 (fillFrame c s))

/-- SETPX (40_colour_frame.md R94, R95): the index is neither clamped nor reduced. -/
def execSetpx (c : Colour) (index : Int) (s : State) : Host.Outcome State Fault Refusal :=
  .next (if indexInRange s.cfg index then returnOk 0 (writeFrame index.toNat c s) else raise .indexOutOfRange s)

/-- MKCOL (40_colour_frame.md R90). -/
def execMkcol (c : Colour) (s : State) : Host.Outcome State Fault Refusal := .next (returnOk (colourValue c) s)

end Sys2Proof.Machine
end

