-- ==== Sys2Proof/Machine/Hue.lean ====
section
/-! DEFINITION. The hue-to-RGB converter (41_hue.md). -/

namespace Sys2Proof.Machine

/-- `h mod 1536`, the floor modulo: non-negative for negative hues too (41_hue.md R101, 00_scope.md R11). -/
def hueReduce (h : Int) : Fin 1536 := ⟨(h % 1536).toNat, by omega⟩

/-- `h' div 256`, the sector of the ramp; there is no seventh (41_hue.md R100, R103). -/
def hueSector (q : Fin 1536) : Fin 6 := ⟨q.val / 256, by omega⟩

/-- `h' mod 256`, the ramp variable `x` (41_hue.md R100). -/
def hueRamp (q : Fin 1536) : Nat := q.val % 256

/-- The table of 41_hue.md R102. -/
def hueToRgb (h : Int) : Colour :=
  let x := hueRamp (hueReduce h)
  match hueSector (hueReduce h) with
  | 0 => rgb 255 x 0
  | 1 => rgb (255 - x) 255 0
  | 2 => rgb 0 255 x
  | 3 => rgb 0 (255 - x) 255
  | 4 => rgb x 0 255
  | 5 => rgb 255 0 (255 - x)

/-- HUE2RGB (41_hue.md R100); it never returns `InvalidHue` (R103). -/
def execHue2rgb (hue : Int) (s : State) : Host.Outcome State Fault Refusal :=
  .next (returnOk (colourValue (hueToRgb hue)) s)

end Sys2Proof.Machine
end

