-- ==== Sys2Proof/Machine/Synchronizer.lean ====
section
/-! DEFINITION. The Transmission Synchronizer: TRANSMIT as its separate steps (43_synchronizer.md section 1). -/

namespace Sys2Proof.Machine

/-- A step of TRANSMIT: the state it leaves and, when it was the last one, the result. -/
structure TxStep where
  state : State
  result : Option Status
deriving DecidableEq, Repr

/-- Step T1: discard a stale completion (43_synchronizer.md R122). -/
def armTransmit (s : State) : State := { clearDone s with sync := .armed }

/-- The count of polls a wait begins with: 0, and none where `TIMEOUT_POLLS` is `INF` (43_synchronizer.md R123,
45_arithmetic_control_access.md R152 (g)). -/
def initialPolls (cfg : Config) : Option Nat := cfg.timeoutPolls.map (fun _ => 0)

/-- One more poll found `done = 0`; a count that is not kept stays so. -/
def countPoll (polls : Option Nat) : Option Nat := polls.map (· + 1)

/-- Step T2: start the transfer (43_synchronizer.md R123). -/
def launchTransmit (s : State) : Host.Outcome State Fault Refusal :=
  andThen (startTransfer s) (fun s' => .next { s' with sync := .wait (initialPolls s'.cfg) })

/-- One more poll found `done = 0`: was it the last one allowed (43_synchronizer.md R124)? A bound without a count
belongs to no run (log entry 11). -/
def lastPoll (cfg : Config) (polls : Option Nat) : Bool :=
  match cfg.timeoutPolls, polls with
  | none, _ => false
  | some _, none => false
  | some t, some n => decide (t ≤ n + 1)

/-- Step T3: one poll in phase `S_WAIT(n)`. A poll that finds 1 tests and then clears, in one step of the model
(43_synchronizer.md R124, 90_conflicts.md C12). -/
def pollTransmit (polls : Option Nat) (s : State) : TxStep :=
  if testDone s then ⟨{ clearDone s with sync := .idle }, some .ok⟩
  else if lastPoll s.cfg polls then ⟨{ s with txfault := true, sync := .idle }, some .transmissionTimeout⟩
  else ⟨{ s with sync := .wait (countPoll polls) }, none⟩

/-- The next step of a TRANSMIT, from the phase the Synchronizer is in. Beginning one needs a buffer an ENCODE has
written and no earlier timeout (43_synchronizer.md R121). -/
def transmitStep (s : State) : Host.Outcome TxStep Fault Refusal :=
  match s.sync with
  | .idle =>
    if s.txfault then .fault .transmitAfterTimeout
    else if s.pvalid then .next ⟨armTransmit s, none⟩
    else .fault .transmitBeforeEncode
  | .armed => andThen (launchTransmit s) (fun s' => .next ⟨s', none⟩)
  | .wait polls => .next (pollTransmit polls s)

/-- After a step of a TRANSMIT the host issued: still inside it, or its result goes to the host. -/
def afterTransmit (t : TxStep) : State :=
  match t.result with
  | none => { t.state with run := .transmit }
  | some .ok => returnOk 0 t.state
  | some e => raise e t.state

/-- TRANSMIT (43_synchronizer.md R120): its next step, T1, T2 or T3. -/
def execTransmit (s : State) : Host.Outcome State Fault Refusal :=
  andThen (transmitStep s) (fun t => .next (afterTransmit t))

end Sys2Proof.Machine
end

