-- ==== Sys2Proof/Machine/Pattern.lean ====
section
/-! DEFINITION. Cancellation, delay and the pattern sequencer (44_pattern_sequencer.md). -/

namespace Sys2Proof.Machine

/-- TSTCANCEL: one atomic test, which clears nothing (44_pattern_sequencer.md R140). -/
def execTstcancel (s : State) : Host.Outcome State Fault Refusal := .next (returnOk (bitValue (testCancel s)) s)

/-- CLRCANCEL: one atomic clear (44_pattern_sequencer.md R141). -/
def execClrcancel (s : State) : Host.Outcome State Fault Refusal := .next (returnOk 0 (clearCancel s))

/-- DELAY (44_pattern_sequencer.md R142). -/
def execDelay (ms : Nat) (s : State) : Host.Outcome State Fault Refusal := .next (returnOk 0 (waitMilliseconds ms s))

/-- One iteration of a pattern loop, as data: the colour it fills the Frame with, its delay, where the mainline stands
at each point of it, and where the next iteration starts. -/
structure Iteration where
  colour : Colour
  delayMs : Nat
  fillAt : Activity
  encodeAt : Activity
  transmitAt : Activity
  delayAt : Activity
  checkAt : Activity
  nextAt : Activity
deriving DecidableEq, Repr

/-- What a pattern does after a step of its TRANSMIT: go on inside it, go on to the delay, or return the error at
once, without delay and without checkpoint (44_pattern_sequencer.md R143, R149). -/
def patternTransmitted (it : Iteration) (t : TxStep) : State :=
  match t.result with
  | none => { t.state with run := it.transmitAt }
  | some .ok => { t.state with run := it.delayAt }
  | some e => raise e t.state

/-- The next step of a pattern's iteration: mutate the frame, `encode`, `transmit`, delay, check the cancellation
signal, continue or return (44_pattern_sequencer.md R143). -/
def patternStep (it : Iteration) (p : PatPoint) (s : State) : Host.Outcome State Fault Refusal :=
  match p with
  | .fill => .next { fillFrame it.colour s with run := it.encodeAt }
  | .encode => andThen (encodeFrame s) (fun s' => .next { s' with run := it.transmitAt })
  | .transmit => andThen (transmitStep s) (fun t => .next (patternTransmitted it t))
  | .delay => .next { waitMilliseconds it.delayMs s with run := it.checkAt }
  | .check => .next (if testCancel s then returnOk 0 s else { s with run := it.nextAt })

/-- A pattern issued by the host starts with the fill of its first iteration; after a timeout it has no meaning
(43_synchronizer.md R125, 93_implementation_defined.md U9). -/
def startPattern (it : Iteration) (s : State) : Host.Outcome State Fault Refusal :=
  if s.txfault then .fault .patternAfterTimeout else patternStep it .fill s

/-- The channels of the Cycle's colours (44_pattern_sequencer.md R145, R146). -/
def CycleColour.colour : CycleColour → Colour
  | .red => rgb 255 0 0
  | .green => rgb 0 255 0
  | .blue => rgb 0 0 255

/-- The order of the Cycle: red, green, blue, red (44_pattern_sequencer.md R145). -/
def CycleColour.succ : CycleColour → CycleColour
  | .red => .green
  | .green => .blue
  | .blue => .red

/-- One colour of the Cycle pattern (44_pattern_sequencer.md R145). -/
def cycleIteration (cfg : Config) (c : CycleColour) : Iteration where
  colour := c.colour
  delayMs := cfg.cycleDwellMs
  fillAt := .cycle c .fill
  encodeAt := .cycle c .encode
  transmitAt := .cycle c .transmit
  delayAt := .cycle c .delay
  checkAt := .cycle c .check
  nextAt := .cycle c.succ .fill

/-- `(h + 1) mod 1536` (44_pattern_sequencer.md R147). -/
def nextHue (h : Fin 1536) : Fin 1536 := ⟨(h.val + 1) % 1536, by omega⟩

/-- One hue of the Rainbow pattern (44_pattern_sequencer.md R147). -/
def rainbowIteration (cfg : Config) (h : Fin 1536) : Iteration where
  colour := hueToRgb h.val
  delayMs := cfg.rainbowStepMs
  fillAt := .rainbow h .fill
  encodeAt := .rainbow h .encode
  transmitAt := .rainbow h .transmit
  delayAt := .rainbow h .delay
  checkAt := .rainbow h .check
  nextAt := .rainbow (nextHue h) .fill

/-- PAT_CYCLE (44_pattern_sequencer.md R145): its next step, or its start at red. -/
def execPatCycle (s : State) : Host.Outcome State Fault Refusal :=
  match s.run with
  | .host => startPattern (cycleIteration s.cfg .red) s
  | .transmit => startPattern (cycleIteration s.cfg .red) s
  | .cycle c p => patternStep (cycleIteration s.cfg c) p s
  | .rainbow _ _ => startPattern (cycleIteration s.cfg .red) s

/-- PAT_RAINBOW (44_pattern_sequencer.md R147): its next step, or its start at hue 0. -/
def execPatRainbow (s : State) : Host.Outcome State Fault Refusal :=
  match s.run with
  | .host => startPattern (rainbowIteration s.cfg 0) s
  | .transmit => startPattern (rainbowIteration s.cfg 0) s
  | .cycle _ _ => startPattern (rainbowIteration s.cfg 0) s
  | .rainbow h p => patternStep (rainbowIteration s.cfg h) p s

end Sys2Proof.Machine
end

