-- ==== Sys2Proof/Machine/Dispatch.lean ====
section
/-! DEFINITION. The dispatch: one arm per command. `exec i s` is the next step of command `i` at `s`; a command of one
step is done after it, TRANSMIT and the patterns go on from where `run` and `sync` stand. -/

namespace Sys2Proof.Machine

def exec (i : Instr) (s : State) : Host.Outcome State Fault Refusal :=
  match i with
  | .newf => Sys2Proof.Machine.execNewf s
  | .clrf => Sys2Proof.Machine.execClrf s
  | .fillf c => Sys2Proof.Machine.execFillf c s
  | .setpx c index => Sys2Proof.Machine.execSetpx c index s
  | .mkcol c => Sys2Proof.Machine.execMkcol c s
  | .hue2rgb hue => Sys2Proof.Machine.execHue2rgb hue s
  | .encode => Sys2Proof.Machine.execEncode s
  | .transmit => Sys2Proof.Machine.execTransmit s
  | .tstcancel => Sys2Proof.Machine.execTstcancel s
  | .clrcancel => Sys2Proof.Machine.execClrcancel s
  | .delay ms => Sys2Proof.Machine.execDelay ms s
  | .patCycle => Sys2Proof.Machine.execPatCycle s
  | .patRainbow => Sys2Proof.Machine.execPatRainbow s

end Sys2Proof.Machine
end

