-- ==== Sys2Proof/Machine/Engine.lean ====
section
/-! DEFINITION. The steps of the transfer engine at its interface boundary (43_synchronizer.md section 2). A step that
is not enabled changes nothing. -/

namespace Sys2Proof.Machine

/-- Step X1: emit entry `k`, read now (43_synchronizer.md R127). -/
def emitEntry (k : Nat) (s : State) : State :=
  match readPulse k s with
  | some d => { s with wire := s.wire ++ [d], xfer := .busy (k + 1) }
  | none => s

/-- Step X2: the transfer ends and the completion notification sets `done`, in one step (43_synchronizer.md R128). -/
def completeTransfer (s : State) : State := completionNotification { s with xfer := .idle }

/-- The engine's turn: X1 while entries are left, then X2 (43_synchronizer.md R127, R128). -/
def engineStep (s : State) : State :=
  match s.xfer with
  | .idle => s
  | .busy k =>
    if k < s.cfg.bufferLen then emitEntry k s
    else if k = s.cfg.bufferLen then completeTransfer s
    else s
  | .hung _ => s

/-- Step X3: a transfer in flight hangs, for good (43_synchronizer.md R129). -/
def engineHang (s : State) : State :=
  match s.xfer with
  | .idle => s
  | .busy k => { s with xfer := .hung k }
  | .hung _ => s

end Sys2Proof.Machine
end

