-- ==== Sys2Proof/Machine/Mainline.lean ====
section
/-! DEFINITION. A turn of each agent: the mainline takes the next command of the host when none is in progress, else
the next step of the one it is in (10_state.md R21, R27). -/

namespace Sys2Proof.Machine

/-- The host issues the word `C`: the command it decodes to runs, an illegal one is answered (30_encoding.md R73,
R75). -/
def issue (C : Word) (s : State) : Host.Outcome State Fault Refusal :=
  match decode C with
  | .ok i => exec i s
  | .error _ => .next (illegalCommand s)

/-- With no command in progress the mainline accepts the host's next one, if there is one; else the block does nothing
(10_state.md R21, 70_reset_and_hazards.md R191). -/
def acceptCommand (s : State) : Host.Outcome State Fault Refusal :=
  match s.pending with
  | [] => .next s
  | C :: rest => issue C { s with pending := rest }

/-- The mainline's turn: a command in progress goes on, and nothing else runs meanwhile (10_state.md R27). -/
def mainlineStep (s : State) : Host.Outcome State Fault Refusal :=
  match s.run with
  | .host => acceptCommand s
  | .transmit => exec .transmit s
  | .cycle _ _ => exec .patCycle s
  | .rainbow _ _ => exec .patRainbow s

/-- Whose turn it is: the first one already decided, else a free one (00_scope.md R13; log entry 1). -/
def nextTurn (s : State) : Turn :=
  match s.turns with
  | [] => Config.freeTurn s.tick
  | t :: _ => t

/-- One turn is used up. -/
def advance (s : State) : State := { s with turns := s.turns.tail, tick := s.tick + 1 }

/-- One step of the agent whose turn it is (00_scope.md R10, R13). -/
def takeTurn (t : Turn) (s : State) : Host.Outcome State Fault Refusal :=
  match t with
  | .mainline => mainlineStep s
  | .engine => .next (engineStep s)
  | .engineHang => .next (engineHang s)
  | .button => .next (cancellationNotification s)

/-- A state in which the mainline is next and accepts `C` (log entry 2). -/
def withCommand (C : Word) (s : State) : State :=
  { s with run := .host, sync := .idle, pending := C :: s.pending, turns := .mainline :: s.turns }

end Sys2Proof.Machine
end

