-- ==== Sys2Proof/Machine/Step.lean ====
section
/-! DEFINITION. One step of the machine: one turn of one agent (00_scope.md R13, 20_memory.md R51). -/

namespace Sys2Proof.Machine

/-- One indivisible transition of the agent whose turn it is. -/
def step (s : State) : Host.Outcome State Fault Refusal := takeTurn (nextTurn s) (advance s)

/-- `s` with the word `w` of `nbits` bits as the host's next command and the mainline's turn next, so that the very
next step runs it (log entry 2). -/
def State.withFetchWord (s : State) (nbits w : Nat) : State := withCommand (BitVec.ofNat 64 (w % 2 ^ nbits)) s

end Sys2Proof.Machine
end

