-- ==== Sys2Proof/Machine/Line.lean ====
section
/-! DEFINITION. The data line (10_state.md R30; 30_encoding.md R66, R67): what the emitted duty values are as line
levels. No other rule looks inside a period. -/

namespace Sys2Proof.Machine

/-- `Wave(d)`: the line levels of one entry, one per tick, high first (30_encoding.md R66, decision D19). -/
def wave (cfg : Config) (d : Nat) : List Bool := List.replicate d true ++ List.replicate (cfg.period - d) false

/-- The line levels of everything emitted since reset, idle time left out (30_encoding.md R66, R67). -/
def lineTrace (s : State) : List Bool := s.wire.flatMap (wave s.cfg)

/-- The level of the line outside a transfer: low (30_encoding.md R67, decision D20). -/
def lineIdleLevel : Bool := false

/-- The level of the line now, where the spec gives one: outside a transfer. During a period the level changes inside
it (R66), and of a hung transfer the spec says nothing. -/
def lineLevel (s : State) : Option Bool :=
  match s.xfer with
  | .idle => some lineIdleLevel
  | .busy _ => none
  | .hung _ => none

end Sys2Proof.Machine
end

