-- ==== Sys2Proof/Safety.lean ====
section
/-! DEFINITION. What counts as a sound state and as a run, in the terms the statements use. -/

namespace Sys2Proof.Machine

/-- How many entries of the Pulse Buffer the transfer in flight has emitted; 0 when none is (10_state.md R28). -/
def Xfer.sent : Xfer → Nat
  | .idle => 0
  | .busy k => k
  | .hung k => k

/-- The Synchronizer is in `S_WAIT(n)` for some `n` (10_state.md R27). -/
def Sync.waiting : Sync → Bool
  | .idle => false
  | .armed => false
  | .wait _ => true

/-- The count of a wait is kept exactly where there is a bound, and is below it (43_synchronizer.md R124; 10_state.md
R27). -/
def Sync.withinBound (cfg : Config) : Sync → Bool
  | .idle => true
  | .armed => true
  | .wait polls =>
    match cfg.timeoutPolls, polls with
    | none, none => true
    | none, some _ => false
    | some _, none => false
    | some t, some n => decide (n < t)

/-- A TRANSMIT is in progress only in a command that has one (10_state.md R21, R27): the host's own, or a pattern at
its transmit point, which may not have begun it yet. -/
def placeOk (run : Activity) (sync : Sync) : Bool :=
  match run with
  | .host => sync == .idle
  | .transmit => sync != .idle
  | .cycle _ p => p == .transmit || sync == .idle
  | .rainbow _ p => p == .transmit || sync == .idle

/-- The invariant of every run from reset (43_synchronizer.md R138 among it). A `done = 1` left over or preset while
the Synchronizer is idle is allowed (R138 I2, R122). -/
structure State.Inv (s : State) : Prop where
  /-- the parameters meet their constraints (00_scope.md R7, R9) -/
  config : s.cfg.wf
  /-- both memories have their fixed lengths (10_state.md R22, R23) -/
  memory : Memory.wf s.cfg s.frame s.pulse
  /-- every entry fits its width (10_state.md R23) -/
  width : ∀ d ∈ s.pulse, d < 2 ^ s.cfg.dutyBits
  /-- after an ENCODE only the three symbols stand in the buffer (42_encoder.md R114) -/
  symbols : s.pvalid = true → ∀ d ∈ s.pulse, s.cfg.isSymbol d
  /-- and only those were ever emitted -/
  wireSymbols : ∀ d ∈ s.wire, s.cfg.isSymbol d
  /-- the command in progress and the Synchronizer's phase fit together -/
  place : placeOk s.run s.sync = true
  /-- (I1) of R138 -/
  quiet : s.sync = .idle → s.txfault = false → s.xfer = .idle
  /-- (I3) of R138: what holds when `StartTransfer` comes next -/
  armed : s.sync = .armed → s.pvalid = true ∧ s.txfault = false ∧ s.done = false ∧ s.xfer = .idle
  /-- during the wait, `done` is set exactly when the transfer is over -/
  waits : s.sync.waiting = true → s.pvalid = true ∧ s.txfault = false ∧ (s.done = true ↔ s.xfer = .idle)
  /-- the polls are counted where there is a bound, and below it (43_synchronizer.md R124; 10_state.md R27) -/
  bound : s.sync.withinBound s.cfg = true
  /-- after a timeout no TRANSMIT and no pattern runs (43_synchronizer.md R125) -/
  faulted : s.txfault = true → s.sync = .idle ∧ s.run = .host ∧ s.pvalid = true ∧ (s.done = true ↔ s.xfer = .idle)
  /-- the engine's position is in the buffer (10_state.md R28) -/
  position : s.xfer.sent ≤ s.cfg.bufferLen
  /-- only an encoded buffer is ever lent (43_synchronizer.md R121) -/
  lent : s.xfer ≠ .idle → s.pvalid = true
  /-- what the transfer in flight has emitted is the front of the buffer (43_synchronizer.md R127) -/
  emitted : s.pulse.take s.xfer.sent <:+ s.wire

/-- (I2) of 43_synchronizer.md R138: no completion is left over. -/
abbrev State.NoStale (s : State) : Prop := s.sync = .idle → s.txfault = false → s.xfer = .idle → s.done = false

/-- What was emitted is the encodings of whole Frames, then the front of the buffer that the transfer in flight has
emitted; so the length of `wire` is that of (I6) of 43_synchronizer.md R138, with the number of transfers that ended
for the count of TRANSMITs, which no state holds. An encoded buffer is the encoding of a Frame (42_encoder.md R113). -/
def State.WholeTransfers (s : State) : Prop :=
  (s.pvalid = true → ∃ f : List Colour, f.length = s.cfg.leds ∧ s.pulse = encodeList s.cfg f) ∧
  ∃ frames : List (List Colour), (∀ f ∈ frames, f.length = s.cfg.leds) ∧
    s.wire = frames.flatMap (encodeList s.cfg) ++ s.pulse.take s.xfer.sent ∧
    s.wire.length = frames.length * s.cfg.bufferLen + s.xfer.sent

/-- `t` comes from `s` by some steps. -/
inductive Reaches (s : State) : State → Prop where
  | refl : Reaches s s
  | tail {t u : State} : Reaches s t → step t = .next u → Reaches s u

/-- `t` comes from `s` by steps each of which starts inside a TRANSMIT: the run of one wait, up to and with the step
that ends it. -/
inductive InTransmit (s : State) : State → Prop where
  | refl : InTransmit s s
  | tail {t u : State} : InTransmit s t → t.sync ≠ .idle → step t = .next u → InTransmit s u

/-- The order of the points in one iteration of a pattern (44_pattern_sequencer.md R143). -/
def PatPoint.rank : PatPoint → Nat
  | .fill => 0
  | .encode => 1
  | .transmit => 2
  | .delay => 3
  | .check => 4

/-- A stretch of a schedule with no turn of the mainline in it. -/
abbrev Quiet (ts : List Turn) : Prop := Turn.mainline ∉ ts

/-- A schedule of one TRANSMIT from its T1 to its successful poll that meets the premises ENGINE_COMPLETES and
ENGINE_IN_TIME (43_synchronizer.md R132): T1, T2, then the engine's `L + 1` steps with fewer unsuccessful polls among
them than the bound allows and no hang, then the poll that succeeds. Turns of the other agents, presses among them, may
stand anywhere between. -/
def TransferInTime (cfg : Config) (ts : List Turn) : Prop :=
  ∃ q₁ q₂ u v : List Turn, Quiet q₁ ∧ Quiet q₂ ∧ Quiet v ∧
    u.count .engine = cfg.bufferLen ∧ Turn.engineHang ∉ u ∧
    (∀ T, cfg.timeoutPolls = some T → u.count .mainline < T) ∧
    ts = q₁ ++ .mainline :: (q₂ ++ .mainline :: (u ++ .engine :: (v ++ [.mainline])))

/-- A schedule of one iteration of a pattern with its transfer in time: fill, encode, the transfer, delay, checkpoint. -/
def IterationInTime (cfg : Config) (ts : List Turn) : Prop :=
  ∃ q₁ q₂ w q₃ q₄ : List Turn, Quiet q₁ ∧ Quiet q₂ ∧ TransferInTime cfg w ∧ Quiet q₃ ∧ Quiet q₄ ∧
    ts = q₁ ++ .mainline :: (q₂ ++ .mainline :: (w ++ (q₃ ++ .mainline :: (q₄ ++ [.mainline]))))

/-- `cancel` after these turns: set before, or by a press among them, when no command cleared it. -/
def cancelAfter (cancel : Bool) (ts : List Turn) : Bool := cancel || ts.contains .button

/-- `k` steps. -/
abbrev runSteps (k : Nat) (s : State) : Host.Outcome State Fault Refusal := Sys2Proof.core.run k s

end Sys2Proof.Machine
end

