-- ==== Sys2Proof/Certificates/Slice0/Obligations.lean ====
section
/-! DEFINITION. The statements. Each docstring names the rule or section of spec/ it formalises. How a result and a
status are laid out in a response word is the spec's own choice (30_encoding.md R74, 60_exceptions.md R161; decisions
D10, D11, D33). Where a statement formalises a rule that says "return Ok(v)" or "raise", it names the response word by
`responseWord`; what that word is, `ResponsesHaveTheDecidedLayout` says. -/

open Sys2Proof Sys2Proof.Machine

/-! ## Encoding -/

/-- Every command a word can carry comes back from its word (30_encoding.md Part B). -/
def Obligations.DecodeOfEncodeIsTheCommand : Prop :=
  ∀ i : Instr, i.wf = true → decode (encode i) = .ok i

/-- Every word that is a command is the word of that command, and the command is well-formed: no word is read two ways
(30_encoding.md Part B). -/
def Obligations.EncodeOfDecodeIsTheWord : Prop :=
  ∀ (C : Word) (i : Instr), decode C = .ok i → i.wf = true ∧ encode i = C

/-- A word is the command of a row exactly when `C AND mask = match` (30_encoding.md R73, a choice the spec marks as its
own, D10). -/
def Obligations.RowsOfTheTableSelectTheirCommands : Prop :=
  ∀ (C : Word) (o : Opcode), C &&& o.maskMatch.1 = o.maskMatch.2 ↔ ∃ i, decode C = .ok i ∧ i.opcode = o

/-- The words of 95_test_vectors.md section 2.6, written out there bit by bit, decode as it says. -/
def Obligations.WrittenWordsDecodeAsTheSpecSays : Prop :=
  decode 0x0100000000000000 = .ok .newf ∧
  decode 0x0312345600000000 = .ok (.fillf ⟨18, 52, 86⟩) ∧
  decode 0x0480402000000001 = .ok (.setpx ⟨128, 64, 32⟩ 1) ∧
  decode 0x06000000FFFFFFFF = .ok (.hue2rgb (-1)) ∧
  decode 0x2200000000000014 = .ok (.delay 20) ∧
  decode 0x3100000000000000 = .ok .patRainbow ∧
  decode 0x1100000000000000 = .ok .transmit ∧
  decode 0x0000000000000000 = .error (.unassignedOpcode 0x00) ∧
  decode 0x0200000000000001 = .error .reservedImm ∧
  decode 0x0601000000000100 = .error .reservedColour ∧
  decode 0x1200000000000000 = .error (.unassignedOpcode 0x12)

/-! ## A step -/

/-- With no command in progress the mainline's turn runs the command the host's next word decodes to, on the state
with that word and that turn used up. -/
def Obligations.StepRunsTheDecodedCommand : Prop :=
  ∀ (s : State) (C : Word) (rest : List Word) (i : Instr),
    nextTurn s = .mainline → s.run = .host → s.pending = C :: rest → decode C = .ok i →
    step s = exec i { advance s with pending := rest }

/-- A command in progress goes on, whatever the host has to issue (10_state.md R21, R27); with none in progress and none
issued the mainline's turn changes nothing (70_reset_and_hazards.md R191: "the block does nothing until the host issues
a command"). -/
def Obligations.StepContinuesTheCommandInProgress : Prop :=
  ∀ s : State, nextTurn s = .mainline →
    (s.run = .transmit → step s = exec .transmit (advance s)) ∧
    (∀ c p, s.run = .cycle c p → step s = exec .patCycle (advance s)) ∧
    (∀ h p, s.run = .rainbow h p → step s = exec .patRainbow (advance s)) ∧
    (s.run = .host → s.pending = [] → step s = .next (advance s))

/-- A word that matches no row answers `IllegalCommand` (code 4) and changes nothing else (30_encoding.md R75, which
the spec marks as its own, D12). -/
def Obligations.IllegalWordIsAnsweredAndChangesNothing : Prop :=
  ∀ (s : State) (C : Word) (rest : List Word),
    nextTurn s = .mainline → s.run = .host → s.pending = C :: rest →
    (∀ o : Opcode, C &&& o.maskMatch.1 ≠ o.maskMatch.2) →
    step s = .next { advance s with pending := rest, responses := s.responses ++ [0x04000000#32] }

/-- Engine step X1: one entry goes out, in index order, read when it is emitted (43_synchronizer.md R127; D18). -/
def Obligations.EngineEmitsTheNextEntry : Prop :=
  ∀ (s : State) (k : Nat) (d : Nat),
    nextTurn s = .engine → s.xfer = .busy k → k < s.cfg.bufferLen → s.pulse[k]? = some d →
    step s = .next { advance s with wire := s.wire ++ [d], xfer := .busy (k + 1) }

/-- Engine step X2: after the last entry the transfer ends and the completion notification sets `done`
(43_synchronizer.md R128; D18, D21). -/
def Obligations.EngineCompletesAfterTheLastEntry : Prop :=
  ∀ s : State, nextTurn s = .engine → s.xfer = .busy s.cfg.bufferLen →
    step s = .next { advance s with xfer := .idle, done := true }

/-- Engine step X3: a transfer in flight may hang anywhere; with no transfer in flight, or after a hang, no step of the
engine changes anything (43_synchronizer.md R129, R130; D18). -/
def Obligations.EngineHangsForGood : Prop :=
  ∀ s : State,
    (∀ k, nextTurn s = .engineHang → s.xfer = .busy k → step s = .next { advance s with xfer := .hung k }) ∧
    (nextTurn s = .engine ∨ nextTurn s = .engineHang → (∀ k, s.xfer ≠ .busy k) → step s = .next (advance s))

/-- The cancellation notification sets `cancel` and does nothing else, at any time (60_exceptions.md R167). -/
def Obligations.ButtonSetsCancelAndNothingElse : Prop :=
  ∀ s : State, nextTurn s = .button → step s = .next { advance s with cancel := true }

/-- The order of a button press and an engine step cannot be observed (60_exceptions.md R170; D21). -/
def Obligations.ButtonAndEngineCommute : Prop :=
  ∀ (s : State) (e : Turn) (ts : List Turn), e = .engine ∨ e = .engineHang →
    runSteps 2 { s with turns := .button :: e :: ts } = runSteps 2 { s with turns := e :: .button :: ts }

/-! ## Colour and frame commands -/

/-- MKCOL returns its operand unchanged, for every one of the `2^24` operands, and writes nothing (40_colour_frame.md
R90). -/
def Obligations.MkcolReturnsItsColour : Prop :=
  ∀ (s : State) (c : Colour),
    exec (.mkcol c) s = .next { s with run := .host, responses := s.responses ++ [responseWord .ok (colourValue c)] }

/-- NEWF makes every element black and touches nothing else (40_colour_frame.md R91, where the spec marks as its own
that NEWF creates nothing, D17). -/
def Obligations.NewfBlackensTheFrame : Prop :=
  ∀ s : State, ∃ t, exec .newf s = .next t ∧
    t = { s with frame := t.frame, run := .host, responses := s.responses ++ [0#32] } ∧
    t.frame.length = s.cfg.leds ∧ ∀ i < s.cfg.leds, t.frame[i]? = some ⟨0, 0, 0⟩

/-- CLRF makes every element black, returns `Ok` and touches nothing else, the Pulse Buffer among it
(40_colour_frame.md R92). -/
def Obligations.ClrfBlackensTheFrame : Prop :=
  ∀ s : State, ∃ t v, exec .clrf s = .next t ∧
    t = { s with frame := t.frame, run := .host, responses := s.responses ++ [responseWord .ok v] } ∧
    t.frame.length = s.cfg.leds ∧ ∀ i < s.cfg.leds, t.frame[i]? = some ⟨0, 0, 0⟩

/-- FILLF sets every element to its colour, returns `Ok` and touches nothing else (40_colour_frame.md R93). -/
def Obligations.FillfFillsTheFrame : Prop :=
  ∀ (s : State) (c : Colour), ∃ t v, exec (.fillf c) s = .next t ∧
    t = { s with frame := t.frame, run := .host, responses := s.responses ++ [responseWord .ok v] } ∧
    t.frame.length = s.cfg.leds ∧ ∀ i < s.cfg.leds, t.frame[i]? = some c

/-- SETPX in range sets exactly one element and returns `Ok`; out of range, a negative index among it, it writes nothing
and returns `IndexOutOfRange` (code 1). It touches nothing else (40_colour_frame.md R94, R95). -/
def Obligations.SetpxSetsOneElementOrReports : Prop :=
  ∀ (s : State) (c : Colour) (index : Int), s.frame.length = s.cfg.leds →
    ∃ t st v, exec (.setpx c index) s = .next t ∧
      t = { s with frame := t.frame, run := .host, responses := s.responses ++ [responseWord st v] } ∧
      t.frame.length = s.cfg.leds ∧
      (0 ≤ index → index < s.cfg.leds → st = .ok ∧
        ∀ i : Nat, i < s.cfg.leds → t.frame[i]? = if (i : Int) = index then some c else s.frame[i]?) ∧
      (index < 0 ∨ (s.cfg.leds : Int) ≤ index → st = .indexOutOfRange ∧ st.code = 1 ∧ t.frame = s.frame)

/-- The layout of a response: the status code above the 24-bit value, a Colour as Red, Green, Blue, the codes of the
table, and value 0 for a command with no result and for an error (30_encoding.md R74 and 60_exceptions.md R161, which
the spec marks as its own, D10, D11, D33). -/
def Obligations.ResponsesHaveTheDecidedLayout : Prop :=
  (∀ (st : Status) (v : BitVec 24), (responseWord st v).toNat = st.code.toNat * 16777216 + v.toNat) ∧
  (∀ c : Colour, (colourValue c).toNat = c.r.toNat * 65536 + c.g.toNat * 256 + c.b.toNat) ∧
  (Status.ok.code = 0 ∧ Status.indexOutOfRange.code = 1 ∧ Status.transmissionTimeout.code = 2 ∧
    Status.invalidHue.code = 3 ∧ Status.illegalCommand.code = 4) ∧
  ∀ (s : State) (c : Colour) (index : Int),
    (∀ i ∈ [Instr.clrf, .fillf c], ∃ t, exec i s = .next t ∧ t.responses = s.responses ++ [0#32]) ∧
    (s.txfault = false → ∃ t, exec .encode s = .next t ∧ t.responses = s.responses ++ [0#32]) ∧
    (0 ≤ index → index < s.cfg.leds →
      ∃ t, exec (.setpx c index) s = .next t ∧ t.responses = s.responses ++ [0#32]) ∧
    (index < 0 ∨ (s.cfg.leds : Int) ≤ index →
      ∃ t, exec (.setpx c index) s = .next t ∧ t.responses = s.responses ++ [0x01000000#32])

/-! ## Hue -/

/-- HUE2RGB follows the six-row table for every integer hue, negative ones among them, and writes nothing
(41_hue.md R100): hue `1536 * q + 256 * bin + x` is row `bin` at `x`. -/
def Obligations.HueFollowsTheTable : Prop :=
  ∀ (s : State) (q : Int) (x : Nat), x < 256 →
    let answers (bin : Int) (r g b : Nat) : Prop :=
      exec (.hue2rgb (1536 * q + 256 * bin + x)) s = .next { s with
        run := .host
        responses := s.responses ++
          [responseWord .ok (colourValue ⟨BitVec.ofNat 8 r, BitVec.ofNat 8 g, BitVec.ofNat 8 b⟩)] }
    answers 0 255 x 0 ∧ answers 1 (255 - x) 255 0 ∧ answers 2 0 255 x ∧
    answers 3 0 (255 - x) 255 ∧ answers 4 x 0 255 ∧ answers 5 255 0 (255 - x)

/-- The hue function is periodic with period 1536, for negative multiples too (41_hue.md, periodicity). -/
def Obligations.HueIsPeriodic : Prop :=
  ∀ (s : State) (h k : Int), exec (.hue2rgb (h + 1536 * k)) s = exec (.hue2rgb h) s

/-- Every colour of the ramp has a channel 255 and a channel 0, and the next hue changes at most one channel, by one
(41_hue.md R102, consequences the spec marks as derived). -/
def Obligations.HueRampMovesOneChannelByOne : Prop :=
  ∀ h : Int,
    let c := hueToRgb h
    let d := hueToRgb (h + 1)
    let near (u v : Channel) : Prop := v.toNat = u.toNat + 1 ∨ u.toNat = v.toNat + 1
    (c.r = 255 ∨ c.g = 255 ∨ c.b = 255) ∧ (c.r = 0 ∨ c.g = 0 ∨ c.b = 0) ∧
    (c = d ∨ (near c.r d.r ∧ c.g = d.g ∧ c.b = d.b) ∨ (c.r = d.r ∧ near c.g d.g ∧ c.b = d.b) ∨
      (c.r = d.r ∧ c.g = d.g ∧ near c.b d.b))

/-! ## Encoder -/

/-- ENCODE writes every entry of the Pulse Buffer as the algorithm says (the two reset regions zero; bit `b` of LED `i`
at `RESET_PULSES + 24*i + (23 - b)`, Green, Red, Blue), sets `pvalid`, returns `Ok` and touches nothing else
(42_encoder.md R111). -/
def Obligations.EncodeWritesEveryEntry : Prop :=
  ∀ s : State, s.frame.length = s.cfg.leds → s.txfault = false →
    ∃ t v, exec .encode s = .next t ∧
      t = { s with
        pulse := t.pulse, pvalid := true, run := .host, responses := s.responses ++ [responseWord .ok v] } ∧
      t.pulse.length = 2 * s.cfg.resetPulses + 24 * s.cfg.leds ∧
      (∀ j, j < s.cfg.resetPulses → t.pulse[j]? = some 0) ∧
      (∀ i c b, s.frame[i]? = some c → b < 24 →
        t.pulse[s.cfg.resetPulses + 24 * i + (23 - b)]? =
          some (if (c.g.toNat * 65536 + c.r.toNat * 256 + c.b.toNat).testBit b then s.cfg.dutyHigh
            else s.cfg.dutyLow)) ∧
      (∀ j, s.cfg.resetPulses + 24 * s.cfg.leds ≤ j → j < 2 * s.cfg.resetPulses + 24 * s.cfg.leds →
        t.pulse[j]? = some 0)

/-- What ENCODE wrote decodes back to the Frame: the encoding is invertible (30_encoding.md R64, R68). -/
def Obligations.EncodedBufferDecodesToTheFrame : Prop :=
  ∀ s t : State, s.cfg.wf → s.frame.length = s.cfg.leds → exec .encode s = .next t →
    decodeTransfer s.cfg t.pulse = some s.frame

/-! ## TRANSMIT, step by step -/

/-- Without an encoded buffer TRANSMIT has no meaning: the model stops (43_synchronizer.md R121, a choice the spec marks
as its own, D16). -/
def Obligations.TransmitNeedsAnEncodedBuffer : Prop :=
  ∀ s : State, s.sync = .idle → s.txfault = false → s.pvalid = false →
    exec .transmit s = .fault .transmitBeforeEncode

/-- After a timeout ENCODE, TRANSMIT and the patterns have no meaning: the model stops (42_encoder.md R115,
43_synchronizer.md R125, choices the spec marks as its own, D9). -/
def Obligations.CommandsAfterATimeoutHaveNoMeaning : Prop :=
  ∀ s : State, s.txfault = true →
    exec .encode s = .fault .encodeAfterTimeout ∧
    (s.sync = .idle → exec .transmit s = .fault .transmitAfterTimeout) ∧
    (s.run = .host → exec .patCycle s = .fault .patternAfterTimeout ∧
      exec .patRainbow s = .fault .patternAfterTimeout)

/-- Step T1 clears a stale completion before anything is started (43_synchronizer.md R122). -/
def Obligations.TransmitFirstClearsDone : Prop :=
  ∀ s : State, s.sync = .idle → s.pvalid = true → s.txfault = false →
    exec .transmit s = .next { s with done := false, sync := .armed, run := .transmit }

/-- Step T2 starts the transfer of the whole buffer and returns at once; the wait begins with no poll counted, or
without a count when `TIMEOUT_POLLS` is `INF` (43_synchronizer.md R123, R126; 10_state.md R27). -/
def Obligations.TransmitThenStartsTheTransfer : Prop :=
  ∀ s : State, s.sync = .armed → s.xfer = .idle →
    exec .transmit s = .next { s with
      xfer := .busy 0, sync := .wait (s.cfg.timeoutPolls.map (fun _ => 0)), run := .transmit }

/-- `StartTransfer` on an engine that is not idle has no meaning: the model stops (43_synchronizer.md R131, a choice the
spec marks as its own, D9). -/
def Obligations.StartOnABusyEngineHasNoMeaning : Prop :=
  ∀ s : State, s.sync = .armed → s.xfer ≠ .idle → exec .transmit s = .fault .startTransferNotIdle

/-- Step T3: a poll that finds `done = 1` clears it and TRANSMIT returns `Ok`; one that finds 0 gives up when it is the
last allowed, and else is counted; with no bound no count is kept (43_synchronizer.md R124, 10_state.md R27,
45_arithmetic_control_access.md R152 (g); the counting is the spec's own choice, D6). -/
def Obligations.TransmitPollsTheCompletionSignal : Prop :=
  ∀ s : State,
    (∀ p, s.sync = .wait p → s.done = true → exec .transmit s = .next
      { s with done := false, sync := .idle, run := .host, responses := s.responses ++ [0#32] }) ∧
    (∀ n T, s.sync = .wait (some n) → s.done = false → s.cfg.timeoutPolls = some T →
      (T ≤ n + 1 → exec .transmit s = .next
        { s with txfault := true, sync := .idle, run := .host, responses := s.responses ++ [0x02000000#32] }) ∧
      (n + 1 < T → exec .transmit s = .next { s with sync := .wait (some (n + 1)), run := .transmit })) ∧
    (s.sync = .wait none → s.done = false → s.cfg.timeoutPolls = none →
      exec .transmit s = .next { s with run := .transmit })

/-- TRANSMIT never reads `cancel` and never changes it: with the flag changed beforehand, its step is the same but for
the flag (43_synchronizer.md R134). -/
def Obligations.TransmitIgnoresCancel : Prop :=
  ∀ (s : State) (b : Bool),
    exec .transmit { s with cancel := b } =
      andThen (exec .transmit s) (fun t => .next { t with cancel := b })

/-! ## Cancellation, delay, patterns -/

/-- TSTCANCEL returns the flag in bit 0 and changes nothing (44_pattern_sequencer.md R140; the command is the spec's
own, D28). -/
def Obligations.TstcancelReturnsTheFlag : Prop :=
  ∀ s : State, exec .tstcancel s = .next { s with
    run := .host, responses := s.responses ++ [if s.cancel then 1#32 else 0#32] }

/-- CLRCANCEL clears the flag and changes nothing else (44_pattern_sequencer.md R141; the command is the spec's own,
D28). -/
def Obligations.ClrcancelClearsTheFlag : Prop :=
  ∀ s : State, exec .clrcancel s = .next { s with
    cancel := false, run := .host, responses := s.responses ++ [0#32] }

/-- DELAY returns `Ok` and changes nothing, for every operand (44_pattern_sequencer.md R142; D29). -/
def Obligations.DelayChangesNothing : Prop :=
  ∀ (s : State) (ms : Nat), exec (.delay ms) s = .next { s with
    run := .host, responses := s.responses ++ [0#32] }

/-- PAT_CYCLE, point by point: it starts by filling red; at each point it does what the loop says, in the order red,
green, blue, red; at the checkpoint it returns `Ok` when `cancel` is set and goes on to the next colour when it is not
(44_pattern_sequencer.md R143, R145; full intensity and the start at red are the spec's own, D26). That these points are
the steps, and that the fill and the encode return nothing to the host, is the model's reading (log entry 15). -/
def Obligations.CyclePatternFollowsItsLoop : Prop :=
  ∀ s : State,
    (s.run = .host → s.txfault = false → exec .patCycle s = .next
      { s with frame := List.replicate s.cfg.leds ⟨255, 0, 0⟩, run := .cycle .red .encode }) ∧
    ∀ (c d : CycleColour) (k : Colour),
      (c, k, d) ∈ [(CycleColour.red, (⟨255, 0, 0⟩ : Colour), CycleColour.green), (.green, ⟨0, 255, 0⟩, .blue),
        (.blue, ⟨0, 0, 255⟩, .red)] →
      (s.run = .cycle c .fill → exec .patCycle s = .next
        { s with frame := List.replicate s.cfg.leds k, run := .cycle c .encode }) ∧
      (s.run = .cycle c .encode → s.txfault = false → exec .patCycle s = .next
        { s with pulse := encodeList s.cfg s.frame, pvalid := true, run := .cycle c .transmit }) ∧
      (s.run = .cycle c .delay → exec .patCycle s = .next { s with run := .cycle c .check }) ∧
      (s.run = .cycle c .check → exec .patCycle s = .next
        (if s.cancel then { s with run := .host, responses := s.responses ++ [0#32] }
          else { s with run := .cycle d .fill }))

/-- PAT_RAINBOW, point by point: it starts by filling red, the colour of hue 0; at each point it does what the loop
says, with the hue one further (modulo 1536) after each checkpoint that finds `cancel` clear
(44_pattern_sequencer.md R143, R147; the start at hue 0 is the spec's own, D26). That the hue's colour and its fill are
one step, the checkpoint and the increment another, and that the fill and the encode return nothing to the host, is the
model's reading (log entry 15). -/
def Obligations.RainbowPatternFollowsItsLoop : Prop :=
  ∀ s : State,
    (s.run = .host → s.txfault = false → exec .patRainbow s = .next
      { s with frame := List.replicate s.cfg.leds ⟨255, 0, 0⟩, run := .rainbow 0 .encode }) ∧
    ∀ h : Fin 1536,
      (s.run = .rainbow h .fill → exec .patRainbow s = .next
        { s with frame := List.replicate s.cfg.leds (hueToRgb h.val), run := .rainbow h .encode }) ∧
      (s.run = .rainbow h .encode → s.txfault = false → exec .patRainbow s = .next
        { s with pulse := encodeList s.cfg s.frame, pvalid := true, run := .rainbow h .transmit }) ∧
      (s.run = .rainbow h .delay → exec .patRainbow s = .next { s with run := .rainbow h .check }) ∧
      (s.run = .rainbow h .check → ∃ t, exec .patRainbow s = .next t ∧
        (s.cancel = true → t = { s with run := .host, responses := s.responses ++ [0#32] }) ∧
        (s.cancel = false → ∃ h' : Fin 1536, h'.val = (h.val + 1) % 1536 ∧ t = { s with run := .rainbow h' .fill }))

/-- A pattern's transmission is TRANSMIT, step for step; its `Ok` leads to the delay of the same iteration and its
error is the pattern's own result, at once (44_pattern_sequencer.md R143; R149, D27). That the inner `Ok` returns
nothing to the host is the model's reading (log entry 15). -/
def Obligations.PatternTransmitsAsTransmitDoes : Prop :=
  ∀ (s : State) (i : Instr) (here after : Activity),
    ((∃ c, i = .patCycle ∧ here = .cycle c .transmit ∧ after = .cycle c .delay) ∨
      (∃ h, i = .patRainbow ∧ here = .rainbow h .transmit ∧ after = .rainbow h .delay)) →
    s.run = here →
    (s.sync = .idle → s.pvalid = true → s.txfault = false →
      exec i s = .next { s with done := false, sync := .armed }) ∧
    (s.sync = .armed → s.xfer = .idle →
      exec i s = .next { s with xfer := .busy 0, sync := .wait (s.cfg.timeoutPolls.map (fun _ => 0)) }) ∧
    (∀ p, s.sync = .wait p → s.done = true →
      exec i s = .next { s with done := false, sync := .idle, run := after }) ∧
    (∀ n T, s.sync = .wait (some n) → s.done = false → s.cfg.timeoutPolls = some T →
      (T ≤ n + 1 → exec i s = .next
        { s with txfault := true, sync := .idle, run := .host, responses := s.responses ++ [0x02000000#32] }) ∧
      (n + 1 < T → exec i s = .next { s with sync := .wait (some (n + 1)) })) ∧
    (s.sync = .wait none → s.done = false → s.cfg.timeoutPolls = none → exec i s = .next s)

/-- Once `cancel` is set, a pattern returns at the next checkpoint it reaches and enters no other iteration: each step
leaves it in the same one, no earlier in it, or ends it, with `Ok` at the checkpoint, where the mainline's turn always
ends it, or with the timeout of its transmission, never inside a transmission (44_pattern_sequencer.md R150; the results
are R149's, which the spec marks as its own, D27, as it does the response words, D11, D33). -/
def Obligations.CancelledPatternStaysInItsIteration : Prop :=
  ∀ s t : State, s.cancel = true → step s = .next t →
    (∀ c p, s.run = .cycle c p → t.cancel = true ∧
      ((∃ p', t.run = .cycle c p' ∧ p.rank ≤ p'.rank ∧ (p = .check → nextTurn s ≠ .mainline)) ∨
        (t.run = .host ∧ p = .check ∧ t.responses = s.responses ++ [0#32]) ∨
        (t.run = .host ∧ p = .transmit ∧ t.txfault = true ∧ t.responses = s.responses ++ [0x02000000#32]))) ∧
    (∀ h p, s.run = .rainbow h p → t.cancel = true ∧
      ((∃ p', t.run = .rainbow h p' ∧ p.rank ≤ p'.rank ∧ (p = .check → nextTurn s ≠ .mainline)) ∨
        (t.run = .host ∧ p = .check ∧ t.responses = s.responses ++ [0#32]) ∨
        (t.run = .host ∧ p = .transmit ∧ t.txfault = true ∧ t.responses = s.responses ++ [0x02000000#32])))

/-! ## Reset and invariants -/

/-- Reset leaves what 70_reset_and_hazards.md R191 states, for every configuration and whatever it leaves unspecified
(`cancel`, the buffer); the values of the two flags and the two phases are the spec's own, D15. -/
def Obligations.ResetLeavesTheStatedValues : Prop :=
  (∀ (cfg : Config) (cancel : Bool) (pulse : List Nat) (s : State), s = State.powerOn cfg cancel pulse →
    (∀ i < s.cfg.leds, s.frame[i]? = some ⟨0, 0, 0⟩) ∧ s.frame.length = s.cfg.leds ∧ s.pvalid = false ∧
    s.txfault = false ∧ s.done = false ∧ s.sync = .idle ∧ s.xfer = .idle ∧ s.wire = [] ∧ s.run = .host ∧
    lineLevel s = some false) ∧
  ∃ cfg cancel pulse, State.reset = State.powerOn cfg cancel pulse ∧ cfg.resetPulses = 300 ∧ cfg.period = 60 ∧
    cfg.dutyHigh = 30 ∧ cfg.dutyLow = 15

/-- The invariant holds at reset, whatever the free values are. -/
def Obligations.ResetMeetsTheInvariant : Prop :=
  State.reset.Inv ∧ State.reset.NoStale ∧ State.reset.WholeTransfers

/-- Every step of every agent keeps the invariant, (I1), (I3) and (I5) of 43_synchronizer.md R138 among it. -/
def Obligations.StepKeepsTheInvariant : Prop :=
  ∀ s t : State, s.Inv → step s = .next t → t.Inv

/-- (I2) of 43_synchronizer.md R138: no completion is left over, from any state where none is. -/
def Obligations.StepLeavesNoStaleCompletion : Prop :=
  ∀ s t : State, s.Inv → s.NoStale → step s = .next t → t.NoStale

/-- What was emitted is the encodings of whole Frames and the front of the buffer that the transfer in flight has
emitted, and its length is that of (I6) of 43_synchronizer.md R138, with the number of transfers that ended for the
count of TRANSMITs. -/
def Obligations.StepKeepsWholeTransfers : Prop :=
  ∀ s t : State, s.Inv → s.WholeTransfers → step s = .next t → t.WholeTransfers

/-- The parameters do not change during a run (70_reset_and_hazards.md R192). -/
def Obligations.ParametersNeverChange : Prop :=
  ∀ s t : State, Reaches s t → t.cfg = s.cfg

/-- `pvalid` and `txfault` are never cleared except by reset (10_state.md R24, R34, bits the spec marks as its own, D9,
D16). -/
def Obligations.HiddenMarksAreNeverCleared : Prop :=
  ∀ s t : State, Reaches s t → (s.pvalid = true → t.pvalid = true) ∧ (s.txfault = true → t.txfault = true)

/-- What was emitted stays emitted, and a step emits at most one entry: the one the engine stands at
(10_state.md R30, 43_synchronizer.md R127). -/
def Obligations.WireGrowsOneEntryAtATime : Prop :=
  ∀ s t : State, step s = .next t →
    t.wire = s.wire ∨
    ∃ k d, nextTurn s = .engine ∧ s.xfer = .busy k ∧ s.pulse[k]? = some d ∧ t.wire = s.wire ++ [d] ∧
      t.xfer = .busy (k + 1)

/-- Only the end of a transfer sets `done`, and only TRANSMIT clears it: on entry, or at the poll that ends it
(10_state.md R25). -/
def Obligations.DoneIsSetAndClearedOnlyAsStated : Prop :=
  ∀ s t : State, step s = .next t →
    (s.done = false → t.done = true → nextTurn s = .engine ∧ s.xfer = .busy s.cfg.bufferLen ∧ t.xfer = .idle) ∧
    (s.done = true → t.done = false → nextTurn s = .mainline ∧
      ((s.sync = .idle ∧ t.sync = .armed) ∨ (∃ p, s.sync = .wait p) ∧ t.sync = .idle))

/-- Only the notification sets `cancel`, and only the command CLRCANCEL clears it (10_state.md R26). -/
def Obligations.CancelIsSetAndClearedOnlyAsStated : Prop :=
  ∀ s t : State, step s = .next t →
    (s.cancel = false → t.cancel = true → nextTurn s = .button) ∧
    (s.cancel = true → t.cancel = false → nextTurn s = .mainline ∧ s.run = .host ∧
      ∃ C rest, s.pending = C :: rest ∧ decode C = .ok .clrcancel)

/-- The engine and the interrupt context write `xfer`, `wire` and the two flags and nothing else; what they set they
set to 1 (10_state.md R33, 60_exceptions.md R172). -/
def Obligations.OtherAgentsWriteOnlyTheirOwnState : Prop :=
  ∀ s : State, nextTurn s ≠ .mainline → ∃ t, step s = .next t ∧
    t = { advance s with done := t.done, cancel := t.cancel, xfer := t.xfer, wire := t.wire } ∧
    (s.done = true → t.done = true) ∧ (s.cancel = true → t.cancel = true)

/-- The Pulse Buffer is not written while the engine holds it (70_reset_and_hazards.md R202). -/
def Obligations.PulseBufferIsNotWrittenWhileLent : Prop :=
  ∀ s t : State, s.Inv → s.xfer ≠ .idle → step s = .next t → t.pulse = s.pulse

/-- No transfer is started while a completion is uncleared (70_reset_and_hazards.md R200): the only step that starts
one is T2, and `done` is 0 there. -/
def Obligations.TransferStartsWithDoneClear : Prop :=
  ∀ s t : State, s.Inv → step s = .next t → s.xfer = .idle → t.xfer ≠ .idle →
    s.done = false ∧ t.done = false ∧ s.sync = .armed ∧
    t.sync = .wait (s.cfg.timeoutPolls.map (fun _ => 0)) ∧ t.xfer = .busy 0

/-- While a TRANSMIT is in progress the mainline does nothing else: it accepts no command and writes neither memory nor
`cancel` (10_state.md R27). -/
def Obligations.MainlineDoesNothingElseDuringTransmit : Prop :=
  ∀ s t : State, s.Inv → s.sync ≠ .idle → nextTurn s = .mainline → step s = .next t →
    t.pending = s.pending ∧ t.frame = s.frame ∧ t.pulse = s.pulse ∧ t.cancel = s.cancel ∧ t.wire = s.wire

/-! ## Whole transmissions -/

/-- The postcondition of `Ok` (43_synchronizer.md R133, derived there from R122 to R128): in every interleaving, from T1
of a TRANSMIT of the host or of a pattern to its return, if it does not time out then exactly the whole buffer has gone
out, whatever `done` was before, and nothing else has changed but `cancel`, which may have been set, the place, the
response and the bookkeeping of turns. So a stale completion never satisfies it. That a pattern's TRANSMIT returns
nothing to the host is the model's reading (log entry 15). -/
def Obligations.TransmitReturnsOnlyAfterTheWholeBuffer : Prop :=
  ∀ s s1 t : State, s.Inv → s.sync = .idle → step s = .next s1 → s1.sync = .armed →
    InTransmit s1 t → t.sync = .idle → t.txfault = false →
    t = { s with
      wire := s.wire ++ s.pulse, done := false, cancel := t.cancel, run := t.run, responses := t.responses
      pending := s1.pending, turns := t.turns, tick := t.tick } ∧
    s.xfer = .idle ∧ (s.cancel = true → t.cancel = true) ∧
    (s1.run = .transmit → t.run = .host ∧ t.responses = s.responses ++ [0#32]) ∧
    (∀ c p, s1.run = .cycle c p → t.run = .cycle c .delay ∧ t.responses = s.responses) ∧
    (∀ h p, s1.run = .rainbow h p → t.run = .rainbow h .delay ∧ t.responses = s.responses)

/-- The timeout (43_synchronizer.md R125, a required hardening; D7, D9 are the spec's own): in every interleaving a
TRANSMIT of the host or of a pattern that gives up leaves `txfault` set, the transfer where it is and a front part of
the buffer on the wire, ends the command in progress with `TransmissionTimeout`, and leaves everything else as it was
but `cancel`, which may have been set, and the bookkeeping of turns. -/
def Obligations.TimeoutLeavesTheTransferInFlight : Prop :=
  ∀ s s1 t : State, s.Inv → s.sync = .idle → step s = .next s1 → s1.sync = .armed →
    InTransmit s1 t → t.sync = .idle → t.txfault = true →
    ∃ k, (t.xfer = .busy k ∨ t.xfer = .hung k) ∧
      t = { s with
        txfault := true, done := false, xfer := t.xfer, wire := s.wire ++ s.pulse.take k, cancel := t.cancel
        run := .host, responses := s.responses ++ [0x02000000#32]
        pending := s1.pending, turns := t.turns, tick := t.tick } ∧
      (s.cancel = true → t.cancel = true)

/-- In every schedule with the engine in time (43_synchronizer.md R132, the premises ENGINE_COMPLETES and
ENGINE_IN_TIME) SHOW, that is ENCODE then TRANSMIT, sends the encoding of the Frame and returns `Ok`
(43_synchronizer.md R135). Unsuccessful polls below the bound and presses may stand anywhere among the turns. -/
def Obligations.ShowSendsTheEncodedFrame : Prop :=
  ∀ (s : State) (q w ts : List Turn) (rest : List Word), s.Inv → s.run = .host → s.txfault = false →
    s.pending = showExpansion.map encode ++ rest →
    Quiet q → TransferInTime s.cfg w → s.turns = q ++ .mainline :: (w ++ ts) →
    runSteps (q.length + 1 + w.length) s = .next { s with
      pulse := encodeList s.cfg s.frame, pvalid := true, wire := s.wire ++ encodeList s.cfg s.frame, done := false
      cancel := cancelAfter s.cancel (q ++ w), responses := s.responses ++ [0#32, 0#32], pending := rest
      turns := ts, tick := s.tick + (q.length + 1 + w.length) }

/-- With a finite bound and a completion that does not come, TRANSMIT returns `TransmissionTimeout` after exactly the
polls that are left (43_synchronizer.md R132; the bound in polls is the spec's own, D6). -/
def Obligations.TransmitGivesUpAfterTheBound : Prop :=
  ∀ (s : State) (n T : Nat) (ts : List Turn), s.run = .transmit → s.sync = .wait (some n) → s.done = false →
    s.cfg.timeoutPolls = some T → n < T → s.turns = List.replicate (T - n) .mainline ++ ts →
    runSteps (T - n) s = .next { s with
      txfault := true, sync := .idle, run := .host, responses := s.responses ++ [0x02000000#32], turns := ts,
      tick := s.tick + (T - n) }

/-- With a finite bound a TRANSMIT always returns, whatever the engine does: in any schedule that holds the polls that
are left, the Synchronizer is idle again at the latest after the last of them (43_synchronizer.md R132; the bound in
polls is the spec's own, D6). -/
def Obligations.TransmitReturnsWithinTheBound : Prop :=
  ∀ (s : State) (n T : Nat) (ts rest : List Turn), s.Inv → s.sync = .wait (some n) → s.cfg.timeoutPolls = some T →
    ts.count .mainline = T - n → s.turns = ts ++ rest →
    ∃ k ≤ ts.length, ∃ t, runSteps k s = .next t ∧ t.sync = .idle

/-- One colour of the Cycle pattern in every schedule with the engine in time, and the first one of a PAT_CYCLE that the
host issues: the Frame is that colour, its encoding goes out whole, and the pattern returns `Ok` if `cancel` is set by
then and goes on to the next colour if not. So a pattern started with `cancel` set still shows one frame
(44_pattern_sequencer.md R143 to R145). The steps of an iteration, and that only the pattern itself returns something to
the host, are the model's reading (log entry 15). -/
def Obligations.CycleIterationSendsOneFrame : Prop :=
  ∀ (s : State) (c : CycleColour) (w ts : List Turn) (rest : List Word), s.Inv →
    (s.run = .cycle c .fill ∧ s.pending = rest ∨
      c = .red ∧ s.run = .host ∧ s.txfault = false ∧ s.pending = encode .patCycle :: rest) →
    IterationInTime s.cfg w → s.turns = w ++ ts →
    ∃ t, runSteps w.length s = .next t ∧
      t = { s with
        frame := List.replicate s.cfg.leds c.colour, pulse := encodeList s.cfg (List.replicate s.cfg.leds c.colour)
        pvalid := true, wire := s.wire ++ encodeList s.cfg (List.replicate s.cfg.leds c.colour), done := false
        cancel := cancelAfter s.cancel w, pending := rest, run := t.run, responses := t.responses, turns := ts
        tick := s.tick + w.length } ∧
      (t.cancel = true → t.run = .host ∧ t.responses = s.responses ++ [0#32]) ∧
      (t.cancel = false → t.run = .cycle c.succ .fill ∧ t.responses = s.responses)

/-- One hue of the Rainbow pattern in every schedule with the engine in time, and the first one of a PAT_RAINBOW that
the host issues (44_pattern_sequencer.md R143, R144, R147). The steps of an iteration, and that only the pattern itself
returns something to the host, are the model's reading (log entry 15). -/
def Obligations.RainbowIterationSendsOneFrame : Prop :=
  ∀ (s : State) (h : Fin 1536) (w ts : List Turn) (rest : List Word), s.Inv →
    (s.run = .rainbow h .fill ∧ s.pending = rest ∨
      h = 0 ∧ s.run = .host ∧ s.txfault = false ∧ s.pending = encode .patRainbow :: rest) →
    IterationInTime s.cfg w → s.turns = w ++ ts →
    ∃ t, runSteps w.length s = .next t ∧
      t = { s with
        frame := List.replicate s.cfg.leds (hueToRgb h.val)
        pulse := encodeList s.cfg (List.replicate s.cfg.leds (hueToRgb h.val))
        pvalid := true, wire := s.wire ++ encodeList s.cfg (List.replicate s.cfg.leds (hueToRgb h.val)), done := false
        cancel := cancelAfter s.cancel w, pending := rest, run := t.run, responses := t.responses, turns := ts
        tick := s.tick + w.length } ∧
      (t.cancel = true → t.run = .host ∧ t.responses = s.responses ++ [0#32]) ∧
      (t.cancel = false → t.responses = s.responses ∧
        ∃ h' : Fin 1536, h'.val = (h.val + 1) % 1536 ∧ t.run = .rainbow h' .fill)

/-! ## The data line -/

/-- One entry on the line: `PERIOD` ticks, of which as many are high as the entry says, and those come first
(30_encoding.md R66; the place of the high ticks is the spec's own, D19). -/
def Obligations.WaveformOfOneEntry : Prop :=
  ∀ (cfg : Config) (d : Nat), cfg.wf → cfg.isSymbol d →
    (wave cfg d).length = cfg.period ∧ ∀ k < cfg.period, (wave cfg d)[k]? = some (decide (k < d))

/-- Everything emitted lasts one period an entry (70_reset_and_hazards.md R212). -/
def Obligations.TransfersLastOnePeriodAnEntry : Prop :=
  ∀ s : State, s.Inv → (lineTrace s).length = s.cfg.period * s.wire.length
end

