-- ==== Sys2Proof/Laws/State.lean ====
section
/-! SUPPORT. What each named update of the state leaves in each field, true by unfolding once, so that no later proof
unfolds an update. -/

namespace Sys2Proof.Machine

@[simp] theorem clearDone_cfg (s : State) : (clearDone s).cfg = s.cfg := rfl
@[simp] theorem clearDone_frame (s : State) : (clearDone s).frame = s.frame := rfl
@[simp] theorem clearDone_pulse (s : State) : (clearDone s).pulse = s.pulse := rfl
@[simp] theorem clearDone_pvalid (s : State) : (clearDone s).pvalid = s.pvalid := rfl
@[simp] theorem clearDone_txfault (s : State) : (clearDone s).txfault = s.txfault := rfl
@[simp] theorem clearDone_done (s : State) : (clearDone s).done = false := rfl
@[simp] theorem clearDone_cancel (s : State) : (clearDone s).cancel = s.cancel := rfl
@[simp] theorem clearDone_sync (s : State) : (clearDone s).sync = s.sync := rfl
@[simp] theorem clearDone_xfer (s : State) : (clearDone s).xfer = s.xfer := rfl
@[simp] theorem clearDone_wire (s : State) : (clearDone s).wire = s.wire := rfl
@[simp] theorem clearDone_run (s : State) : (clearDone s).run = s.run := rfl
@[simp] theorem clearDone_pending (s : State) : (clearDone s).pending = s.pending := rfl
@[simp] theorem clearDone_responses (s : State) : (clearDone s).responses = s.responses := rfl
@[simp] theorem clearDone_turns (s : State) : (clearDone s).turns = s.turns := rfl
@[simp] theorem clearDone_tick (s : State) : (clearDone s).tick = s.tick := rfl

@[simp] theorem setDone_cfg (s : State) : (setDone s).cfg = s.cfg := rfl
@[simp] theorem setDone_frame (s : State) : (setDone s).frame = s.frame := rfl
@[simp] theorem setDone_pulse (s : State) : (setDone s).pulse = s.pulse := rfl
@[simp] theorem setDone_pvalid (s : State) : (setDone s).pvalid = s.pvalid := rfl
@[simp] theorem setDone_txfault (s : State) : (setDone s).txfault = s.txfault := rfl
@[simp] theorem setDone_done (s : State) : (setDone s).done = true := rfl
@[simp] theorem setDone_cancel (s : State) : (setDone s).cancel = s.cancel := rfl
@[simp] theorem setDone_sync (s : State) : (setDone s).sync = s.sync := rfl
@[simp] theorem setDone_xfer (s : State) : (setDone s).xfer = s.xfer := rfl
@[simp] theorem setDone_wire (s : State) : (setDone s).wire = s.wire := rfl
@[simp] theorem setDone_run (s : State) : (setDone s).run = s.run := rfl
@[simp] theorem setDone_pending (s : State) : (setDone s).pending = s.pending := rfl
@[simp] theorem setDone_responses (s : State) : (setDone s).responses = s.responses := rfl
@[simp] theorem setDone_turns (s : State) : (setDone s).turns = s.turns := rfl
@[simp] theorem setDone_tick (s : State) : (setDone s).tick = s.tick := rfl

@[simp] theorem clearCancel_cfg (s : State) : (clearCancel s).cfg = s.cfg := rfl
@[simp] theorem clearCancel_frame (s : State) : (clearCancel s).frame = s.frame := rfl
@[simp] theorem clearCancel_pulse (s : State) : (clearCancel s).pulse = s.pulse := rfl
@[simp] theorem clearCancel_pvalid (s : State) : (clearCancel s).pvalid = s.pvalid := rfl
@[simp] theorem clearCancel_txfault (s : State) : (clearCancel s).txfault = s.txfault := rfl
@[simp] theorem clearCancel_done (s : State) : (clearCancel s).done = s.done := rfl
@[simp] theorem clearCancel_cancel (s : State) : (clearCancel s).cancel = false := rfl
@[simp] theorem clearCancel_sync (s : State) : (clearCancel s).sync = s.sync := rfl
@[simp] theorem clearCancel_xfer (s : State) : (clearCancel s).xfer = s.xfer := rfl
@[simp] theorem clearCancel_wire (s : State) : (clearCancel s).wire = s.wire := rfl
@[simp] theorem clearCancel_run (s : State) : (clearCancel s).run = s.run := rfl
@[simp] theorem clearCancel_pending (s : State) : (clearCancel s).pending = s.pending := rfl
@[simp] theorem clearCancel_responses (s : State) : (clearCancel s).responses = s.responses := rfl
@[simp] theorem clearCancel_turns (s : State) : (clearCancel s).turns = s.turns := rfl
@[simp] theorem clearCancel_tick (s : State) : (clearCancel s).tick = s.tick := rfl

@[simp] theorem setCancel_cfg (s : State) : (setCancel s).cfg = s.cfg := rfl
@[simp] theorem setCancel_frame (s : State) : (setCancel s).frame = s.frame := rfl
@[simp] theorem setCancel_pulse (s : State) : (setCancel s).pulse = s.pulse := rfl
@[simp] theorem setCancel_pvalid (s : State) : (setCancel s).pvalid = s.pvalid := rfl
@[simp] theorem setCancel_txfault (s : State) : (setCancel s).txfault = s.txfault := rfl
@[simp] theorem setCancel_done (s : State) : (setCancel s).done = s.done := rfl
@[simp] theorem setCancel_cancel (s : State) : (setCancel s).cancel = true := rfl
@[simp] theorem setCancel_sync (s : State) : (setCancel s).sync = s.sync := rfl
@[simp] theorem setCancel_xfer (s : State) : (setCancel s).xfer = s.xfer := rfl
@[simp] theorem setCancel_wire (s : State) : (setCancel s).wire = s.wire := rfl
@[simp] theorem setCancel_run (s : State) : (setCancel s).run = s.run := rfl
@[simp] theorem setCancel_pending (s : State) : (setCancel s).pending = s.pending := rfl
@[simp] theorem setCancel_responses (s : State) : (setCancel s).responses = s.responses := rfl
@[simp] theorem setCancel_turns (s : State) : (setCancel s).turns = s.turns := rfl
@[simp] theorem setCancel_tick (s : State) : (setCancel s).tick = s.tick := rfl

@[simp] theorem writeFrame_cfg (i : Nat) (c : Colour) (s : State) : (writeFrame i c s).cfg = s.cfg := rfl
@[simp] theorem writeFrame_frame (i : Nat) (c : Colour) (s : State) : (writeFrame i c s).frame = s.frame.set i c := rfl
@[simp] theorem writeFrame_pulse (i : Nat) (c : Colour) (s : State) : (writeFrame i c s).pulse = s.pulse := rfl
@[simp] theorem writeFrame_pvalid (i : Nat) (c : Colour) (s : State) : (writeFrame i c s).pvalid = s.pvalid := rfl
@[simp] theorem writeFrame_txfault (i : Nat) (c : Colour) (s : State) : (writeFrame i c s).txfault = s.txfault := rfl
@[simp] theorem writeFrame_done (i : Nat) (c : Colour) (s : State) : (writeFrame i c s).done = s.done := rfl
@[simp] theorem writeFrame_cancel (i : Nat) (c : Colour) (s : State) : (writeFrame i c s).cancel = s.cancel := rfl
@[simp] theorem writeFrame_sync (i : Nat) (c : Colour) (s : State) : (writeFrame i c s).sync = s.sync := rfl
@[simp] theorem writeFrame_xfer (i : Nat) (c : Colour) (s : State) : (writeFrame i c s).xfer = s.xfer := rfl
@[simp] theorem writeFrame_wire (i : Nat) (c : Colour) (s : State) : (writeFrame i c s).wire = s.wire := rfl
@[simp] theorem writeFrame_run (i : Nat) (c : Colour) (s : State) : (writeFrame i c s).run = s.run := rfl
@[simp] theorem writeFrame_pending (i : Nat) (c : Colour) (s : State) : (writeFrame i c s).pending = s.pending := rfl
@[simp] theorem writeFrame_responses (i : Nat) (c : Colour) (s : State) : (writeFrame i c s).responses = s.responses := rfl
@[simp] theorem writeFrame_turns (i : Nat) (c : Colour) (s : State) : (writeFrame i c s).turns = s.turns := rfl
@[simp] theorem writeFrame_tick (i : Nat) (c : Colour) (s : State) : (writeFrame i c s).tick = s.tick := rfl

@[simp] theorem fillFrame_cfg (c : Colour) (s : State) : (fillFrame c s).cfg = s.cfg := rfl
@[simp] theorem fillFrame_frame (c : Colour) (s : State) : (fillFrame c s).frame = List.replicate s.cfg.leds c := rfl
@[simp] theorem fillFrame_pulse (c : Colour) (s : State) : (fillFrame c s).pulse = s.pulse := rfl
@[simp] theorem fillFrame_pvalid (c : Colour) (s : State) : (fillFrame c s).pvalid = s.pvalid := rfl
@[simp] theorem fillFrame_txfault (c : Colour) (s : State) : (fillFrame c s).txfault = s.txfault := rfl
@[simp] theorem fillFrame_done (c : Colour) (s : State) : (fillFrame c s).done = s.done := rfl
@[simp] theorem fillFrame_cancel (c : Colour) (s : State) : (fillFrame c s).cancel = s.cancel := rfl
@[simp] theorem fillFrame_sync (c : Colour) (s : State) : (fillFrame c s).sync = s.sync := rfl
@[simp] theorem fillFrame_xfer (c : Colour) (s : State) : (fillFrame c s).xfer = s.xfer := rfl
@[simp] theorem fillFrame_wire (c : Colour) (s : State) : (fillFrame c s).wire = s.wire := rfl
@[simp] theorem fillFrame_run (c : Colour) (s : State) : (fillFrame c s).run = s.run := rfl
@[simp] theorem fillFrame_pending (c : Colour) (s : State) : (fillFrame c s).pending = s.pending := rfl
@[simp] theorem fillFrame_responses (c : Colour) (s : State) : (fillFrame c s).responses = s.responses := rfl
@[simp] theorem fillFrame_turns (c : Colour) (s : State) : (fillFrame c s).turns = s.turns := rfl
@[simp] theorem fillFrame_tick (c : Colour) (s : State) : (fillFrame c s).tick = s.tick := rfl

@[simp] theorem writePulse_cfg (p : List Nat) (s : State) : (writePulse p s).cfg = s.cfg := rfl
@[simp] theorem writePulse_frame (p : List Nat) (s : State) : (writePulse p s).frame = s.frame := rfl
@[simp] theorem writePulse_pulse (p : List Nat) (s : State) : (writePulse p s).pulse = p := rfl
@[simp] theorem writePulse_pvalid (p : List Nat) (s : State) : (writePulse p s).pvalid = s.pvalid := rfl
@[simp] theorem writePulse_txfault (p : List Nat) (s : State) : (writePulse p s).txfault = s.txfault := rfl
@[simp] theorem writePulse_done (p : List Nat) (s : State) : (writePulse p s).done = s.done := rfl
@[simp] theorem writePulse_cancel (p : List Nat) (s : State) : (writePulse p s).cancel = s.cancel := rfl
@[simp] theorem writePulse_sync (p : List Nat) (s : State) : (writePulse p s).sync = s.sync := rfl
@[simp] theorem writePulse_xfer (p : List Nat) (s : State) : (writePulse p s).xfer = s.xfer := rfl
@[simp] theorem writePulse_wire (p : List Nat) (s : State) : (writePulse p s).wire = s.wire := rfl
@[simp] theorem writePulse_run (p : List Nat) (s : State) : (writePulse p s).run = s.run := rfl
@[simp] theorem writePulse_pending (p : List Nat) (s : State) : (writePulse p s).pending = s.pending := rfl
@[simp] theorem writePulse_responses (p : List Nat) (s : State) : (writePulse p s).responses = s.responses := rfl
@[simp] theorem writePulse_turns (p : List Nat) (s : State) : (writePulse p s).turns = s.turns := rfl
@[simp] theorem writePulse_tick (p : List Nat) (s : State) : (writePulse p s).tick = s.tick := rfl

@[simp] theorem respond_cfg (st : Status) (v : BitVec 24) (s : State) : (respond st v s).cfg = s.cfg := rfl
@[simp] theorem respond_frame (st : Status) (v : BitVec 24) (s : State) : (respond st v s).frame = s.frame := rfl
@[simp] theorem respond_pulse (st : Status) (v : BitVec 24) (s : State) : (respond st v s).pulse = s.pulse := rfl
@[simp] theorem respond_pvalid (st : Status) (v : BitVec 24) (s : State) : (respond st v s).pvalid = s.pvalid := rfl
@[simp] theorem respond_txfault (st : Status) (v : BitVec 24) (s : State) : (respond st v s).txfault = s.txfault := rfl
@[simp] theorem respond_done (st : Status) (v : BitVec 24) (s : State) : (respond st v s).done = s.done := rfl
@[simp] theorem respond_cancel (st : Status) (v : BitVec 24) (s : State) : (respond st v s).cancel = s.cancel := rfl
@[simp] theorem respond_sync (st : Status) (v : BitVec 24) (s : State) : (respond st v s).sync = s.sync := rfl
@[simp] theorem respond_xfer (st : Status) (v : BitVec 24) (s : State) : (respond st v s).xfer = s.xfer := rfl
@[simp] theorem respond_wire (st : Status) (v : BitVec 24) (s : State) : (respond st v s).wire = s.wire := rfl
@[simp] theorem respond_run (st : Status) (v : BitVec 24) (s : State) : (respond st v s).run = .host := rfl
@[simp] theorem respond_pending (st : Status) (v : BitVec 24) (s : State) : (respond st v s).pending = s.pending := rfl
@[simp] theorem respond_responses (st : Status) (v : BitVec 24) (s : State) : (respond st v s).responses = s.responses ++ [responseWord st v] := rfl
@[simp] theorem respond_turns (st : Status) (v : BitVec 24) (s : State) : (respond st v s).turns = s.turns := rfl
@[simp] theorem respond_tick (st : Status) (v : BitVec 24) (s : State) : (respond st v s).tick = s.tick := rfl

@[simp] theorem armTransmit_cfg (s : State) : (armTransmit s).cfg = s.cfg := rfl
@[simp] theorem armTransmit_frame (s : State) : (armTransmit s).frame = s.frame := rfl
@[simp] theorem armTransmit_pulse (s : State) : (armTransmit s).pulse = s.pulse := rfl
@[simp] theorem armTransmit_pvalid (s : State) : (armTransmit s).pvalid = s.pvalid := rfl
@[simp] theorem armTransmit_txfault (s : State) : (armTransmit s).txfault = s.txfault := rfl
@[simp] theorem armTransmit_done (s : State) : (armTransmit s).done = false := rfl
@[simp] theorem armTransmit_cancel (s : State) : (armTransmit s).cancel = s.cancel := rfl
@[simp] theorem armTransmit_sync (s : State) : (armTransmit s).sync = .armed := rfl
@[simp] theorem armTransmit_xfer (s : State) : (armTransmit s).xfer = s.xfer := rfl
@[simp] theorem armTransmit_wire (s : State) : (armTransmit s).wire = s.wire := rfl
@[simp] theorem armTransmit_run (s : State) : (armTransmit s).run = s.run := rfl
@[simp] theorem armTransmit_pending (s : State) : (armTransmit s).pending = s.pending := rfl
@[simp] theorem armTransmit_responses (s : State) : (armTransmit s).responses = s.responses := rfl
@[simp] theorem armTransmit_turns (s : State) : (armTransmit s).turns = s.turns := rfl
@[simp] theorem armTransmit_tick (s : State) : (armTransmit s).tick = s.tick := rfl

@[simp] theorem completeTransfer_cfg (s : State) : (completeTransfer s).cfg = s.cfg := rfl
@[simp] theorem completeTransfer_frame (s : State) : (completeTransfer s).frame = s.frame := rfl
@[simp] theorem completeTransfer_pulse (s : State) : (completeTransfer s).pulse = s.pulse := rfl
@[simp] theorem completeTransfer_pvalid (s : State) : (completeTransfer s).pvalid = s.pvalid := rfl
@[simp] theorem completeTransfer_txfault (s : State) : (completeTransfer s).txfault = s.txfault := rfl
@[simp] theorem completeTransfer_done (s : State) : (completeTransfer s).done = true := rfl
@[simp] theorem completeTransfer_cancel (s : State) : (completeTransfer s).cancel = s.cancel := rfl
@[simp] theorem completeTransfer_sync (s : State) : (completeTransfer s).sync = s.sync := rfl
@[simp] theorem completeTransfer_xfer (s : State) : (completeTransfer s).xfer = .idle := rfl
@[simp] theorem completeTransfer_wire (s : State) : (completeTransfer s).wire = s.wire := rfl
@[simp] theorem completeTransfer_run (s : State) : (completeTransfer s).run = s.run := rfl
@[simp] theorem completeTransfer_pending (s : State) : (completeTransfer s).pending = s.pending := rfl
@[simp] theorem completeTransfer_responses (s : State) : (completeTransfer s).responses = s.responses := rfl
@[simp] theorem completeTransfer_turns (s : State) : (completeTransfer s).turns = s.turns := rfl
@[simp] theorem completeTransfer_tick (s : State) : (completeTransfer s).tick = s.tick := rfl

@[simp] theorem advance_cfg (s : State) : (advance s).cfg = s.cfg := rfl
@[simp] theorem advance_frame (s : State) : (advance s).frame = s.frame := rfl
@[simp] theorem advance_pulse (s : State) : (advance s).pulse = s.pulse := rfl
@[simp] theorem advance_pvalid (s : State) : (advance s).pvalid = s.pvalid := rfl
@[simp] theorem advance_txfault (s : State) : (advance s).txfault = s.txfault := rfl
@[simp] theorem advance_done (s : State) : (advance s).done = s.done := rfl
@[simp] theorem advance_cancel (s : State) : (advance s).cancel = s.cancel := rfl
@[simp] theorem advance_sync (s : State) : (advance s).sync = s.sync := rfl
@[simp] theorem advance_xfer (s : State) : (advance s).xfer = s.xfer := rfl
@[simp] theorem advance_wire (s : State) : (advance s).wire = s.wire := rfl
@[simp] theorem advance_run (s : State) : (advance s).run = s.run := rfl
@[simp] theorem advance_pending (s : State) : (advance s).pending = s.pending := rfl
@[simp] theorem advance_responses (s : State) : (advance s).responses = s.responses := rfl
@[simp] theorem advance_turns (s : State) : (advance s).turns = s.turns.tail := rfl
@[simp] theorem advance_tick (s : State) : (advance s).tick = s.tick + 1 := rfl

end Sys2Proof.Machine
end

