-- ==== Sys2Proof/Laws/Ops.lean ====
section
/-! SUPPORT. One lemma per shared operation that says everything it can do, and that every memory operation keeps the
memories' canonical form. Later proofs cite these and do not unfold the operations. -/

namespace Sys2Proof.Machine

/-! ## Sequencing -/

@[simp] theorem andThen_next {α β : Type} (a : α) (k : α → Host.Outcome β Fault Refusal) :
    andThen (.next a) k = k a := rfl

@[simp] theorem andThen_fault {α β : Type} (f : Fault) (k : α → Host.Outcome β Fault Refusal) :
    andThen (.fault f) k = .fault f := rfl

@[simp] theorem andThen_refused {α β : Type} (r : Refusal) (k : α → Host.Outcome β Fault Refusal) :
    andThen (.refused r) k = .refused r := rfl

theorem andThen_eq_next {α β : Type} {o : Host.Outcome α Fault Refusal} {k : α → Host.Outcome β Fault Refusal}
    {b : β} : andThen o k = .next b ↔ ∃ a, o = .next a ∧ k a = .next b := by
  cases o <;> simp

/-! ## Responses -/

theorem returnOk_eq (v : BitVec 24) (s : State) : returnOk v s = respond .ok v s := rfl

theorem raise_eq (e : Status) (s : State) : raise e s = respond e 0 s := rfl

theorem illegalCommand_eq (s : State) : illegalCommand s = respond .illegalCommand 0 s := rfl

/-- Status and value are read back from a response word (30_encoding.md R74). -/
theorem responseWord_fields (st : Status) (v : BitVec 24) :
    (responseWord st v).extractLsb' 24 8 = st.code ∧ (responseWord st v).extractLsb' 0 24 = v := by
  constructor
  · apply BitVec.eq_of_getLsbD_eq
    intro i hi
    have h : (responseWord st v).getLsbD (24 + i) = (st.code ++ v).getLsbD (24 + i) := rfl
    rw [BitVec.getLsbD_extractLsb', h, BitVec.getLsbD_append]
    simp [hi]
  · apply BitVec.eq_of_getLsbD_eq
    intro i hi
    have h : (responseWord st v).getLsbD (0 + i) = (st.code ++ v).getLsbD (0 + i) := rfl
    rw [BitVec.getLsbD_extractLsb', h, BitVec.getLsbD_append]
    simp [hi]

/-! ## The memories keep their canonical form -/

theorem writeFrame_keeps_memory {s : State} (i : Nat) (c : Colour) (h : Memory.wf s.cfg s.frame s.pulse) :
    Memory.wf (writeFrame i c s).cfg (writeFrame i c s).frame (writeFrame i c s).pulse := by
  simpa [Memory.wf] using h

theorem fillFrame_keeps_memory {s : State} (c : Colour) (h : Memory.wf s.cfg s.frame s.pulse) :
    Memory.wf (fillFrame c s).cfg (fillFrame c s).frame (fillFrame c s).pulse := by
  simpa [Memory.wf] using h.2

@[simp] theorem ledEntries_length (cfg : Config) (c : Colour) : (ledEntries cfg c).length = 24 := by
  simp [ledEntries, Config.bitsPerLed]

/-- The encoder's output always has the fixed length (42_encoder.md R114 (a)). -/
theorem encodeList_length (cfg : Config) (frame : List Colour) :
    (encodeList cfg frame).length = 2 * cfg.resetPulses + 24 * frame.length := by
  have h : (frame.flatMap (ledEntries cfg)).length = 24 * frame.length := by
    induction frame with
    | nil => rfl
    | cons c cs ih => simp only [List.flatMap_cons, List.length_append, ledEntries_length, ih, List.length_cons]; omega
  simp only [encodeList, resetEntries, List.length_append, List.length_replicate, h]
  omega

theorem writePulse_encodeList_keeps_memory {s : State} (h : Memory.wf s.cfg s.frame s.pulse) :
    Memory.wf s.cfg s.frame (writePulse (encodeList s.cfg s.frame) s).pulse := by
  simp [Memory.wf, encodeList_length, h.1, Config.bufferLen, Config.bitsPerLed]

theorem powerOn_memory (cfg : Config) (cancel : Bool) (pulse : List Nat) (h : pulse.length = cfg.bufferLen) :
    Memory.wf cfg (State.powerOn cfg cancel pulse).frame (State.powerOn cfg cancel pulse).pulse := by
  simp [Memory.wf, State.powerOn, h]

theorem reset_memory : Memory.wf State.reset.cfg State.reset.frame State.reset.pulse := by
  simp [Memory.wf, State.reset, State.powerOn]

/-- A write to one element is read back there and leaves every other element (40_colour_frame.md R94). -/
theorem readFrame_writeFrame {s : State} (i j : Nat) (c : Colour) (h : i < s.frame.length) :
    readFrame j (writeFrame i c s) = if j = i then some c else readFrame j s := by
  by_cases e : j = i
  · subst e; simp [readFrame, h]
  · have e' : i ≠ j := fun h' => e h'.symm
    simp [readFrame, List.getElem?_set_ne e', e]

/-! ## The engine -/

theorem startTransfer_eq_next {s t : State} :
    startTransfer s = .next t ↔ s.xfer = .idle ∧ t = { s with xfer := .busy 0 } := by
  unfold startTransfer
  split <;> simp_all [eq_comm]

/-- The engine's turn: X1, X2, or nothing (43_synchronizer.md R127, R128). -/
theorem engineStep_cases (s : State) :
    (∃ k d, s.xfer = .busy k ∧ k < s.cfg.bufferLen ∧ s.pulse[k]? = some d ∧
      engineStep s = { s with wire := s.wire ++ [d], xfer := .busy (k + 1) }) ∨
    (s.xfer = .busy s.cfg.bufferLen ∧ engineStep s = { s with xfer := .idle, done := true }) ∨
    engineStep s = s := by
  unfold engineStep
  split
  · exact .inr (.inr rfl)
  · rename_i k hk
    split
    · rename_i hlt
      unfold emitEntry
      split
      · rename_i d hd
        exact .inl ⟨k, d, hk, hlt, hd, rfl⟩
      · exact .inr (.inr rfl)
    · split
      · rename_i heq
        exact .inr (.inl ⟨heq ▸ hk, rfl⟩)
      · exact .inr (.inr rfl)
  · exact .inr (.inr rfl)

/-- The hang: X3, or nothing (43_synchronizer.md R129). -/
theorem engineHang_cases (s : State) :
    (∃ k, s.xfer = .busy k ∧ engineHang s = { s with xfer := .hung k }) ∨ engineHang s = s := by
  unfold engineHang
  split
  · exact .inr rfl
  · exact .inl ⟨_, ‹_›, rfl⟩
  · exact .inr rfl

/-! ## ENCODE and TRANSMIT -/

theorem encodeFrame_eq_next {s t : State} :
    encodeFrame s = .next t ↔
      s.txfault = false ∧ t = { s with pulse := encodeList s.cfg s.frame, pvalid := true } := by
  unfold encodeFrame
  split
  · simp [*]
  · rename_i hf
    constructor
    · intro h; cases h; exact ⟨by simpa using hf, rfl⟩
    · rintro ⟨-, rfl⟩; rfl

/-- The last poll allowed: there is a bound, and the count reaches it. -/
theorem lastPoll_eq_true {cfg : Config} {polls : Option Nat} :
    lastPoll cfg polls = true ↔ ∃ T n, cfg.timeoutPolls = some T ∧ polls = some n ∧ T ≤ n + 1 := by
  unfold lastPoll
  split <;> simp_all

@[simp] theorem countPoll_none : countPoll none = none := rfl

@[simp] theorem countPoll_some (n : Nat) : countPoll (some n) = some (n + 1) := rfl

theorem initialPolls_eq_none {cfg : Config} (h : cfg.timeoutPolls = none) : initialPolls cfg = none := by
  simp [initialPolls, h]

theorem initialPolls_eq_some {cfg : Config} {T : Nat} (h : cfg.timeoutPolls = some T) :
    initialPolls cfg = some 0 := by
  simp [initialPolls, h]

/-- Everything a step of a TRANSMIT can do (43_synchronizer.md R122 to R124): T1, T2, a poll that succeeds, the last
poll that fails, a poll that is counted. -/
theorem transmitStep_cases {s : State} {r : TxStep} (h : transmitStep s = .next r) :
    (s.sync = .idle ∧ s.txfault = false ∧ s.pvalid = true ∧
      r = ⟨{ s with done := false, sync := .armed }, none⟩) ∨
    (s.sync = .armed ∧ s.xfer = .idle ∧ r = ⟨{ s with xfer := .busy 0, sync := .wait (initialPolls s.cfg) }, none⟩) ∨
    (∃ p, s.sync = .wait p ∧ s.done = true ∧ r = ⟨{ s with done := false, sync := .idle }, some .ok⟩) ∨
    (∃ T n, s.sync = .wait (some n) ∧ s.done = false ∧ s.cfg.timeoutPolls = some T ∧ T ≤ n + 1 ∧
      r = ⟨{ s with txfault := true, sync := .idle }, some .transmissionTimeout⟩) ∨
    (∃ p, s.sync = .wait p ∧ s.done = false ∧ (∀ T n, s.cfg.timeoutPolls = some T → p = some n → n + 1 < T) ∧
      r = ⟨{ s with sync := .wait (countPoll p) }, none⟩) := by
  unfold transmitStep at h
  split at h
  · split at h
    · cases h
    · split at h
      · cases h
        exact .inl ⟨‹_›, by simpa using ‹¬ s.txfault = true›, ‹_›, rfl⟩
      · cases h
  · simp only [launchTransmit, andThen_eq_next, startTransfer_eq_next] at h
    obtain ⟨a, ⟨b, ⟨hx, rfl⟩, ha⟩, hr⟩ := h
    cases ha; cases hr
    exact .inr (.inl ⟨‹_›, hx, rfl⟩)
  · rename_i p hn
    cases h
    unfold pollTransmit
    by_cases hd : s.done = true
    · exact .inr (.inr (.inl ⟨p, hn, hd, by simp [testDone, hd, clearDone]⟩))
    · have hd' : s.done = false := by simpa using hd
      by_cases hl : lastPoll s.cfg p = true
      · obtain ⟨T, n, hT, rfl, hle⟩ := lastPoll_eq_true.1 hl
        exact .inr (.inr (.inr (.inl ⟨T, n, hn, hd', hT, hle, by simp [testDone, hd', hl]⟩)))
      · refine .inr (.inr (.inr (.inr ⟨p, hn, hd', fun T n hT hp => ?_, by simp [testDone, hd', hl]⟩)))
        by_contra hlt
        exact hl (lastPoll_eq_true.2 ⟨T, n, hT, hp, by omega⟩)

/-- TRANSMIT of the host: the step, then what becomes of its result. -/
theorem execTransmit_eq_next {s t : State} :
    execTransmit s = .next t ↔ ∃ r, transmitStep s = .next r ∧ t = afterTransmit r := by
  simp only [execTransmit, andThen_eq_next]
  constructor
  · rintro ⟨r, hr, ht⟩; cases ht; exact ⟨r, hr, rfl⟩
  · rintro ⟨r, hr, rfl⟩; exact ⟨r, hr, rfl⟩

/-! ## Patterns -/

/-- Everything one point of a pattern's loop can do (44_pattern_sequencer.md R143). -/
theorem patternStep_cases {it : Iteration} {p : PatPoint} {s t : State} (h : patternStep it p s = .next t) :
    (p = .fill ∧ t = { s with frame := List.replicate s.cfg.leds it.colour, run := it.encodeAt }) ∨
    (p = .encode ∧ s.txfault = false ∧
      t = { s with pulse := encodeList s.cfg s.frame, pvalid := true, run := it.transmitAt }) ∨
    (p = .transmit ∧ ∃ r, transmitStep s = .next r ∧ t = patternTransmitted it r) ∨
    (p = .delay ∧ t = { s with run := it.checkAt }) ∨
    (p = .check ∧ s.cancel = true ∧ t = returnOk 0 s) ∨
    (p = .check ∧ s.cancel = false ∧ t = { s with run := it.nextAt }) := by
  cases p with
  | fill => cases h; exact .inl ⟨rfl, rfl⟩
  | encode =>
    simp only [patternStep, andThen_eq_next, encodeFrame_eq_next] at h
    obtain ⟨a, ⟨hf, rfl⟩, ht⟩ := h
    cases ht
    exact .inr (.inl ⟨rfl, hf, rfl⟩)
  | transmit =>
    simp only [patternStep, andThen_eq_next] at h
    obtain ⟨r, hr, ht⟩ := h
    cases ht
    exact .inr (.inr (.inl ⟨rfl, r, hr, rfl⟩))
  | delay => cases h; exact .inr (.inr (.inr (.inl ⟨rfl, rfl⟩)))
  | check =>
    by_cases hc : s.cancel = true
    · simp only [patternStep, testCancel, hc, if_true] at h
      cases h
      exact .inr (.inr (.inr (.inr (.inl ⟨rfl, hc, rfl⟩))))
    · have hc' : s.cancel = false := by simpa using hc
      rw [patternStep, if_neg (by simpa [testCancel] using hc)] at h
      cases h
      exact .inr (.inr (.inr (.inr (.inr ⟨rfl, hc', rfl⟩))))

theorem startPattern_eq_next {it : Iteration} {s t : State} :
    startPattern it s = .next t ↔
      s.txfault = false ∧ t = { s with frame := List.replicate s.cfg.leds it.colour, run := it.encodeAt } := by
  unfold startPattern
  split
  · simp [*]
  · rename_i hf
    constructor
    · intro h; cases h; exact ⟨by simpa using hf, rfl⟩
    · rintro ⟨-, rfl⟩; rfl

/-! ## A step -/

/-- Everything a step can be: one turn of one agent, on the state with that turn used up. -/
theorem step_cases {s t : State} (h : step s = .next t) :
    (nextTurn s = .mainline ∧ mainlineStep (advance s) = .next t) ∨
    (nextTurn s = .engine ∧ t = engineStep (advance s)) ∨
    (nextTurn s = .engineHang ∧ t = engineHang (advance s)) ∨
    (nextTurn s = .button ∧ t = { advance s with cancel := true }) := by
  unfold step at h
  cases ht : nextTurn s <;> rw [ht] at h
  · exact .inl ⟨rfl, h⟩
  · cases h; exact .inr (.inl ⟨rfl, rfl⟩)
  · cases h; exact .inr (.inr (.inl ⟨rfl, rfl⟩))
  · cases h; exact .inr (.inr (.inr ⟨rfl, rfl⟩))

/-- Everything the mainline's turn can be: nothing to do, an illegal word, a command of the host, or the command in
progress (10_state.md R21, R27). -/
theorem mainlineStep_cases {s t : State} (h : mainlineStep s = .next t) :
    (s.run = .host ∧ s.pending = [] ∧ t = s) ∨
    (∃ C rest e, s.run = .host ∧ s.pending = C :: rest ∧ decode C = .error e ∧
      t = respond .illegalCommand 0 { s with pending := rest }) ∨
    (∃ C rest i, s.run = .host ∧ s.pending = C :: rest ∧ decode C = .ok i ∧
      exec i { s with pending := rest } = .next t) ∨
    (s.run = .transmit ∧ execTransmit s = .next t) ∨
    (∃ c p, s.run = .cycle c p ∧ patternStep (cycleIteration s.cfg c) p s = .next t) ∨
    (∃ hue p, s.run = .rainbow hue p ∧ patternStep (rainbowIteration s.cfg hue) p s = .next t) := by
  unfold mainlineStep at h
  split at h
  · rename_i hrun
    unfold acceptCommand at h
    split at h
    · cases h; exact .inl ⟨hrun, ‹_›, rfl⟩
    · rename_i C rest hp
      unfold issue at h
      split at h
      · rename_i i hi
        exact .inr (.inr (.inl ⟨C, rest, i, hrun, hp, hi, h⟩))
      · rename_i e he
        cases h
        exact .inr (.inl ⟨C, rest, e, hrun, hp, he, rfl⟩)
  · exact .inr (.inr (.inr (.inl ⟨‹_›, h⟩)))
  · rename_i c p hrun
    refine .inr (.inr (.inr (.inr (.inl ⟨c, p, hrun, ?_⟩))))
    simpa only [exec, execPatCycle, hrun] using h
  · rename_i hue p hrun
    refine .inr (.inr (.inr (.inr (.inr ⟨hue, p, hrun, ?_⟩))))
    simpa only [exec, execPatRainbow, hrun] using h

end Sys2Proof.Machine
end

