-- ==== Sys2Proof/Laws/Encoder.lean ====
section
/-! SUPPORT. The response word as a number, the entries the encoder writes, and the bits they stand for
(30_encoding.md Part A, R74). -/

namespace Sys2Proof.Machine

/-! ## Responses -/

theorem responseWord_toNat (st : Status) (v : BitVec 24) :
    (responseWord st v).toNat = st.code.toNat * 2^24 + v.toNat := by
  show (st.code ++ v).toNat = _
  rw [BitVec.toNat_append, ← Nat.shiftLeft_add_eq_or_of_lt v.isLt, Nat.shiftLeft_eq]

theorem colourValue_toNat (c : Colour) : (colourValue c).toNat = c.r.toNat * 65536 + c.g.toNat * 256 + c.b.toNat := by
  show (c.r ++ c.g ++ c.b).toNat = _
  rw [BitVec.toNat_append, ← Nat.shiftLeft_add_eq_or_of_lt c.b.isLt, BitVec.toNat_append, ←
      Nat.shiftLeft_add_eq_or_of_lt c.g.isLt, Nat.shiftLeft_eq, Nat.shiftLeft_eq]
  omega

/-- The response that carries a Colour (30_encoding.md R74). -/
theorem responseWord_colour (c : Colour) : responseWord .ok (colourValue c) =
    BitVec.ofNat 32 (c.r.toNat * 65536 + c.g.toNat * 256 + c.b.toNat) := by
  apply BitVec.eq_of_toNat_eq
  rw [responseWord_toNat, colourValue_toNat]
  have h1 := c.r.isLt; have h2 := c.g.isLt; have h3 := c.b.isLt
  simp [Status.code]; omega

/-- The response that carries a Colour given by its channel values. -/
theorem responseWord_rgb (r g b : Nat) (h1 : r < 256) (h2 : g < 256) (h3 : b < 256) :
    responseWord .ok (colourValue (rgb r g b)) = BitVec.ofNat 32 (r * 65536 + g * 256 + b) := by
  rw [responseWord_colour]
  simp only [rgb, BitVec.toNat_ofNat]
  rw [Nat.mod_eq_of_lt h1, Nat.mod_eq_of_lt h2, Nat.mod_eq_of_lt h3]

theorem responseWord_timeout : responseWord .transmissionTimeout 0 = 0x02000000#32 := by decide

theorem responseWord_ok_zero : responseWord .ok 0 = 0#32 := by decide

/-! ## Entries -/

theorem isSymbol_sym (cfg : Config) (b) : cfg.isSymbol (sym cfg b) := by cases b <;> simp [sym, Config.isSymbol]

/-- The encoder writes only the three symbols (42_encoder.md R114). -/
theorem encodeList_isSymbol (cfg : Config) (fr : List Colour) : ∀ d ∈ encodeList cfg fr, cfg.isSymbol d := by
  intro d hd
  simp only [encodeList, resetEntries, List.mem_append, List.mem_replicate, List.mem_flatMap, ledEntries,
      List.mem_map] at hd
  rcases hd with (⟨_, rfl⟩ | ⟨c, _, t, _, rfl⟩) | ⟨_, rfl⟩
  · exact .inl rfl
  · exact isSymbol_sym _ _
  · exact .inl rfl

/-- A symbol fits the width of an entry (00_scope.md R7, R9). -/
theorem isSymbol_fits {cfg : Config} (hw : cfg.wf) {d} (h : cfg.isSymbol d) : d < 2 ^ cfg.dutyBits := by
  obtain ⟨_, _, h1, h2, h3, h4, h5, _⟩ := hw
  rcases h with rfl | rfl | rfl <;> simp only [Config.dutyZero] at * <;> omega

theorem dataEntries_length (cfg : Config) (fr : List Colour) :
    (fr.flatMap (ledEntries cfg)).length = 24 * fr.length := by
  have := encodeList_length cfg fr
  simp [encodeList, resetEntries] at this; simp; omega

/-- Entry `t` of LED `i` stands at `24 * i + t` of the data region (20_memory.md R42). -/
theorem dataEntries_getElem (cfg : Config) (fr : List Colour) (i t : Nat) (c) (h : fr[i]? = some c) (ht : t < 24)
    (rest : List Nat) :
    (fr.flatMap (ledEntries cfg) ++ rest)[24*i+t]? = (ledEntries cfg c)[t]? := by
  induction fr generalizing i with
  | nil => simp at h
  | cons a as ih =>
    cases i with
    | zero =>
      simp at h
      subst h
      rw [List.flatMap_cons, List.append_assoc, List.getElem?_append_left (by simp; omega)]
      simp
    | succ i =>
      simp at h
      rw [List.flatMap_cons, List.append_assoc, List.getElem?_append_right (by simp; omega), ← ih i h]
      congr 1; simp; omega

/-- Bit `b` of the transmission word, as a number (30_encoding.md R61). -/
theorem grbWord_getLsbD (c : Colour) (b : Nat) :
    (grbWord c).getLsbD b = (c.g.toNat * 65536 + c.r.toNat * 256 + c.b.toNat).testBit b := by
  have : (grbWord c).toNat = c.g.toNat * 65536 + c.r.toNat * 256 + c.b.toNat := by
    show (c.g ++ c.r ++ c.b).toNat = _
    rw [BitVec.toNat_append, ← Nat.shiftLeft_add_eq_or_of_lt c.b.isLt, BitVec.toNat_append, ←
        Nat.shiftLeft_add_eq_or_of_lt c.r.isLt, Nat.shiftLeft_eq, Nat.shiftLeft_eq]
    omega
  rw [← this]; rfl

/-! ## Bits -/

theorem bitsValue_snoc (bs : List Bool) (b : Bool) : bitsValue (bs ++ [b]) = 2 * bitsValue bs + b.toNat := by
  simp [bitsValue]

/-- A number is given back by its bits, most significant first. -/
theorem bitsValue_range (n w : Nat) : bitsValue ((List.range n).map (fun t => w.testBit (n - 1 - t))) = w % 2^n := by
  induction n generalizing w with
  | zero => simp [bitsValue, Nat.mod_one]
  | succ n ih =>
    rw [List.range_succ, List.map_append, List.map_singleton, bitsValue_snoc]
    have e : (List.range n).map (fun t => w.testBit (n + 1 - 1 - t)) =
        (List.range n).map (fun t => (w/2).testBit (n - 1 - t)) := by
      apply List.map_congr_left
      intro t ht
      rw [List.mem_range] at ht
      rw [← Nat.testBit_succ]; congr 1; omega
    rw [e, ih]
    simp only [Nat.add_sub_cancel, Nat.sub_self]
    have hb : (w.testBit 0).toNat = w % 2 := by
      rw [Nat.testBit_zero]; rcases Nat.mod_two_eq_zero_or_one w with h | h <;> simp [h]
    rw [hb, Nat.pow_succ, Nat.mul_comm (2^n) 2, Nat.mod_mul]; omega

/-- The bits of a data region are given back by its entries. -/
theorem entryBits_map (cfg : Config) (h : cfg.dutyLow ≠ cfg.dutyHigh) (bs : List Bool) :
    entryBits cfg (bs.map (sym cfg)) = some bs := by
  induction bs with
  | nil => rfl
  | cons b bs ih => cases b <;> simp [entryBits, ih, symBit, sym, h]

/-- The transmission word gives the Colour back (30_encoding.md R68). -/
theorem colourOfGrb_grbWord (c : Colour) : colourOfGrb (grbWord c) = c := by
  rcases c with ⟨r,g,b⟩
  have h : ∀ j, (grbWord ⟨r,g,b⟩).getLsbD j = (g ++ r ++ b).getLsbD j := fun _ => rfl
  simp only [colourOfGrb, Colour.mk.injEq]
  refine ⟨?_, ?_, ?_⟩ <;> (apply BitVec.eq_of_getLsbD_eq; intro i hi; rw [BitVec.getLsbD_extractLsb', h]; simp only
      [BitVec.getLsbD_append])
  · simp [hi]
  · rw [if_neg (by omega), if_neg (by omega), show 16 + i - 8 - 8 = i by omega]; simp [hi]
  · simp [hi]

end Sys2Proof.Machine
end

