-- ==== Sys2Proof/Laws/Encoding.lean ====
section
/-! SUPPORT. The command word and its fields (30_encoding.md R71), the opcode search and the reserved-field checks:
one lemma each, so that no later proof unfolds them. -/

namespace Sys2Proof

/-- The opcode is read back from a packed word. -/
theorem opField_packWord (op c imm) : opField (packWord op c imm) = op := by
  apply BitVec.eq_of_getLsbD_eq
  intro i hi
  have h : (packWord op c imm).getLsbD (56+i) = (op ++ c.r ++ c.g ++ c.b ++ imm).getLsbD (56+i) := rfl
  rw [opField, BitVec.getLsbD_extractLsb', h]
  simp only [BitVec.getLsbD_append]
  simp [hi, show ¬ (56 + i < 32) by omega, show ¬ (56 + i - 32 < 8) by omega, show ¬ (56 + i - 32 - 8 < 8) by omega,
      show ¬ (56 + i - 32 - 8 - 8 < 8) by omega, show 56 + i - 32 - 8 - 8 - 8 = i by omega]

/-- The colour field is read back from a packed word. -/
theorem colourField_packWord (op c imm) : colourField (packWord op c imm) = c := by
  rcases c with ⟨r,g,b⟩
  have h : ∀ j, (packWord op ⟨r,g,b⟩ imm).getLsbD j = (op ++ r ++ g ++ b ++ imm).getLsbD j := fun _ => rfl
  simp only [colourField, Colour.mk.injEq]
  refine ⟨?_, ?_, ?_⟩ <;> (apply BitVec.eq_of_getLsbD_eq; intro i hi; rw [BitVec.getLsbD_extractLsb', h]; simp only
      [BitVec.getLsbD_append])
  · simp [hi, show ¬ (48 + i < 32) by omega, show ¬ (48 + i - 32 < 8) by omega, show ¬ (48 + i - 32 - 8 < 8) by
        omega, show 48 + i - 32 - 8 - 8 = i by omega]
  · simp [hi, show ¬ (40 + i < 32) by omega, show ¬ (40 + i - 32 < 8) by omega, show 40 + i - 32 - 8 = i by omega]
  · simp [hi, show ¬ (32 + i < 32) by omega, show 32 + i - 32 = i by omega]

/-- The immediate is read back from a packed word. -/
theorem immField_packWord (op c imm) : immField (packWord op c imm) = imm := by
  apply BitVec.eq_of_getLsbD_eq
  intro i hi
  have h : ∀ j, (packWord op c imm).getLsbD j = (op ++ c.r ++ c.g ++ c.b ++ imm).getLsbD j := fun _ => rfl
  rw [immField, BitVec.getLsbD_extractLsb', h, BitVec.getLsbD_append]
  simp [hi]

/-- A word is its four fields: none of its bits lies outside them. -/
theorem packWord_fields (C : Word) : packWord (opField C) (colourField C) (immField C) = C := by
  apply BitVec.eq_of_getLsbD_eq
  intro i hi
  have h : ∀ op c imm, (packWord op c imm).getLsbD i = (op ++ c.r ++ c.g ++ c.b ++ imm).getLsbD i := fun _ _ _ => rfl
  rw [h]
  simp only [BitVec.getLsbD_append, opField, colourField, immField, BitVec.getLsbD_extractLsb']
  by_cases h1 : i < 32
  · simp [h1]
  by_cases h2 : i - 32 < 8
  · rw [if_neg h1, if_pos h2, show 32 + (i - 32) = i by omega]; simp [h2]
  by_cases h3 : i - 32 - 8 < 8
  · rw [if_neg h1, if_neg h2, if_pos h3, show 40 + (i - 32 - 8) = i by omega]; simp [h3]
  by_cases h4 : i - 32 - 8 - 8 < 8
  · rw [if_neg h1, if_neg h2, if_neg h3, if_pos h4, show 48 + (i - 32 - 8 - 8) = i by omega]; simp [h4]
  · rw [if_neg h1, if_neg h2, if_neg h3, if_neg h4, show 56 + (i - 32 - 8 - 8 - 8) = i by omega]
    simp [show i - 32 - 8 - 8 - 8 < 8 by omega]

/-- Two packed words are equal exactly when their fields are. -/
theorem packWord_inj {op op' : BitVec 8} {c c' : Colour} {i i' : Imm} :
    packWord op c i = packWord op' c' i' ↔ op = op' ∧ c = c' ∧ i = i' := by
  constructor
  · intro h
    exact ⟨by rw [← opField_packWord op c i, h, opField_packWord], by rw [← colourField_packWord op c i, h,
        colourField_packWord], by rw [← immField_packWord op c i, h, immField_packWord]⟩
  · rintro ⟨rfl, rfl, rfl⟩; rfl

/-- The bitwise AND of two words goes field by field. -/
theorem packWord_and (op op' : BitVec 8) (c c' : Colour) (i i' : Imm) :
    packWord op c i &&& packWord op' c' i' =
      packWord (op &&& op') ⟨c.r &&& c'.r, c.g &&& c'.g, c.b &&& c'.b⟩ (i &&& i') := by
  show ((op ++ c.r ++ c.g ++ c.b ++ i) &&& (op' ++ c'.r ++ c'.g ++ c'.b ++ i')) = _
  rw [BitVec.and_append, BitVec.and_append, BitVec.and_append, BitVec.and_append]; rfl

/-- The opcode search finds every assigned opcode. -/
theorem ofCode_code (o : Opcode) : Opcode.ofCode o.code = some o := by cases o <;> decide

/-- The opcode search finds nothing else. -/
theorem ofCode_some {v o} (h : Opcode.ofCode v = some o) : v = o.code := by
  have := List.find?_some h
  simpa using (beq_iff_eq.1 this).symm

/-- A command with no operand is accepted only with both fields zero. -/
theorem bare_ok {C i j} (h : bare C i = .ok j) : colourField C = black ∧ immField C = 0 ∧ i = j := by
  unfold bare colourReserved immReserved at h
  split at h
  · split at h
    · cases h; exact ⟨‹_›, ‹_›, rfl⟩
    · cases h
  · cases h

/-- A command with no colour is accepted only with that field zero. -/
theorem colourReserved_ok {C k j} (h : colourReserved C k = .ok j) : colourField C = black ∧ k = .ok j := by
  unfold colourReserved at h
  split at h
  · exact ⟨‹_›, h⟩
  · cases h

/-- A command with no immediate is accepted only with that field zero. -/
theorem immReserved_ok {C k j} (h : immReserved C k = .ok j) : immField C = 0 ∧ k = .ok j := by
  unfold immReserved at h
  split at h
  · exact ⟨‹_›, h⟩
  · cases h

end Sys2Proof
end

