-- ==== Sys2Proof/Laws/PerInstr.lean ====
section
/-! SUPPORT. The families of statements made for every command, one lemma per constructor. -/

namespace Sys2Proof.Laws.OpcodeField

/-- The opcode field of a command's word is the opcode of its row (30_encoding.md R70, R71). -/
def Statement (i : Instr) : Prop := opField (encode i) = i.opcode.code

theorem newf : Statement .newf := opField_packWord _ _ _

theorem clrf : Statement .clrf := opField_packWord _ _ _

theorem fillf (c : Colour) : Statement (.fillf c) := opField_packWord _ _ _

theorem setpx (c : Colour) (index : Int) : Statement (.setpx c index) := opField_packWord _ _ _

theorem mkcol (c : Colour) : Statement (.mkcol c) := opField_packWord _ _ _

theorem hue2rgb (hue : Int) : Statement (.hue2rgb hue) := opField_packWord _ _ _

theorem encode : Statement .encode := opField_packWord _ _ _

theorem transmit : Statement .transmit := opField_packWord _ _ _

theorem tstcancel : Statement .tstcancel := opField_packWord _ _ _

theorem clrcancel : Statement .clrcancel := opField_packWord _ _ _

theorem delay (ms : Nat) : Statement (.delay ms) := opField_packWord _ _ _

theorem patCycle : Statement .patCycle := opField_packWord _ _ _

theorem patRainbow : Statement .patRainbow := opField_packWord _ _ _

end Sys2Proof.Laws.OpcodeField
end

