-- ==== Sys2Proof/Laws/Step.lean ====
section
/-! SUPPORT. Running several steps, presses among them, what the mainline's turn can change at most, and the updates that keep the
invariant. -/

namespace Sys2Proof.Machine

/-! ## Several steps -/

/-- One step, then the others. -/
theorem runSteps_succ (k) {s t} (h : step s = .next t) : runSteps (k+1) s = runSteps k t := by
  simp only [runSteps, Host.Core.run]
  rw [show Sys2Proof.core.step s = .next t from h]

/-- Some steps, then the others. -/
theorem runSteps_add (a b : Nat) {s t : State} (h : runSteps a s = .next t) : runSteps (a+b) s = runSteps b t := by
  induction a generalizing s with
  | zero => cases h; simp
  | succ a ih =>
    cases hs : step s with
    | next u => rw [runSteps_succ a hs] at h; rw [show a+1+b = (a+b)+1 by omega, runSteps_succ _ hs]; exact ih h
    | fault f => exfalso; simp [runSteps, Host.Core.run] at h; rw [show core.step s = _ from hs] at h; cases h
    | refused f => exfalso; simp [runSteps, Host.Core.run] at h; rw [show core.step s = _ from hs] at h; cases h

/-! ## Presses among the turns -/

@[simp] theorem cancelAfter_nil (c) : cancelAfter c [] = c := by simp [cancelAfter]
@[simp] theorem cancelAfter_mainline (c ts) : cancelAfter c (.mainline :: ts) = cancelAfter c ts := by
  simp [cancelAfter]
@[simp] theorem cancelAfter_engine (c ts) : cancelAfter c (.engine :: ts) = cancelAfter c ts := by simp [cancelAfter]
@[simp] theorem cancelAfter_engineHang (c ts) : cancelAfter c (.engineHang :: ts) = cancelAfter c ts := by
  simp [cancelAfter]
@[simp] theorem cancelAfter_button (c ts) : cancelAfter c (.button :: ts) = true := by simp [cancelAfter]

/-- One stretch of turns, then another. -/
theorem cancelAfter_append (c a b) : cancelAfter c (a ++ b) = cancelAfter (cancelAfter c a) b := by
  simp [cancelAfter, Bool.or_assoc]

/-- With no transfer in flight, turns without the mainline's do nothing but set `cancel` at a press. -/
theorem runSteps_quiet (q : List Turn) {s : State} {ts : List Turn} (hq : Quiet q) (hx : s.xfer = .idle)
    (ht : s.turns = q ++ ts) : runSteps q.length s = .next { s with
      cancel := cancelAfter s.cancel q, turns := ts, tick := s.tick + q.length } := by
  induction q generalizing s with
  | nil =>
    obtain rfl : s.turns = ts := by simpa using ht
    simp
    rfl
  | cons a q ih =>
    have hn : nextTurn s = a := by rw [nextTurn, ht]; rfl
    have key : step s = .next { advance s with cancel := cancelAfter s.cancel [a] } := by
      unfold step
      rw [hn]
      cases a with
      | mainline => exact absurd List.mem_cons_self hq
      | engine => simp [takeTurn, engineStep, hx, advance]
      | engineHang => simp [takeTurn, engineHang, hx, advance]
      | button => simp [takeTurn, cancellationNotification, setCancel]
    rw [List.length_cons, runSteps_succ _ key]
    refine (ih (s := { advance s with cancel := cancelAfter s.cancel [a] }) (fun h => hq (.tail _ h)) hx
      (by simp [advance, ht])).trans ?_
    simp only [advance]
    rw [← cancelAfter_append, List.singleton_append, Nat.add_right_comm, Nat.add_assoc]

/-! ## The mainline's turn -/

/-- What the mainline's turn changes at most, field by field. -/
structure MainEffect (s t : State) : Prop where
  cfg : t.cfg = s.cfg
  wire : t.wire = s.wire
  pvalid : s.pvalid = true → t.pvalid = true
  txfault : s.txfault = true → t.txfault = true
  pulse : (t.pulse = s.pulse ∧ t.pvalid = s.pvalid) ∨
    (s.txfault = false ∧ t.sync = s.sync ∧ t.xfer = s.xfer ∧ t.pulse = encodeList s.cfg s.frame ∧
    (s.run = .host ∨ (∃ c, s.run = .cycle c .encode) ∨ (∃ c, s.run = .rainbow c .encode)))
  done : t.done = s.done ∨ (t.done = false ∧
    ((s.sync = .idle ∧ t.sync = .armed) ∨ ((∃ p, s.sync = .wait p) ∧ t.sync = .idle)))
  xfer : t.xfer = s.xfer ∨
    (s.sync = .armed ∧ s.xfer = .idle ∧ t.xfer = .busy 0 ∧ t.sync = .wait (initialPolls s.cfg) ∧ t.done = s.done)
  cancel : t.cancel = s.cancel ∨ (t.cancel = false ∧ s.run = .host ∧
    ∃ C rest, s.pending = C :: rest ∧ decode C = .ok .clrcancel)

/-- The result of a TRANSMIT changes only the place and the responses. -/
theorem afterTransmit_shape (r : TxStep) : afterTransmit r =
    { r.state with run := (afterTransmit r).run, responses := (afterTransmit r).responses } := by
  unfold afterTransmit; split <;> rfl

/-- So does the result of a pattern's TRANSMIT. -/
theorem patternTransmitted_shape (it : Iteration) (r : TxStep) : patternTransmitted it r =
    { r.state with
      run := (patternTransmitted it r).run, responses := (patternTransmitted it r).responses } := by
  unfold patternTransmitted; split <;> rfl

theorem transmitStep_effect {s : State} {r : TxStep} (hr : transmitStep s = .next r) {u : State}
    (hu : u = { r.state with run := u.run, responses := u.responses }) : MainEffect s u := by
  rw [hu]
  rcases transmitStep_cases hr with ⟨hs, htf, hpv, rfl⟩ | ⟨hs, hx, rfl⟩ | ⟨q, hs, hd, rfl⟩ | ⟨T, q, hs, hd, hT, hle, rfl⟩ |
      ⟨q, hs, hd, hT, rfl⟩ <;>
    constructor <;> simp_all

theorem patternStep_effect {s t : State} {it p} (hs : patternStep it p s = .next t)
    (hrun : p = .encode → (∃ c, s.run = .cycle c .encode) ∨ (∃ c, s.run = .rainbow c .encode)) :
    MainEffect s t := by
  rcases patternStep_cases hs with ⟨rfl, rfl⟩ | ⟨rfl, h, rfl⟩ | ⟨rfl, r, hr, rfl⟩ | ⟨rfl, rfl⟩ | ⟨rfl, hc, rfl⟩ |
      ⟨rfl, hc, rfl⟩
  · constructor <;> simp
  · constructor <;> simp [h]
    exact .inr (.inr (hrun rfl))
  · exact transmitStep_effect hr (patternTransmitted_shape _ _)
  · constructor <;> simp
  · constructor <;> simp [returnOk_eq]
  · constructor <;> simp

theorem exec_effect {s t : State} {i rest C} (hrr : s.run = .host) (hp : s.pending = C :: rest)
    (hd : decode C = .ok i) (hs : exec i { s with pending := rest } = .next t) : MainEffect s t := by
  cases i <;> simp only [exec] at hs
  case newf => cases hs; constructor <;> simp [returnOk_eq]
  case clrf => cases hs; constructor <;> simp [returnOk_eq]
  case fillf => cases hs; constructor <;> simp [returnOk_eq]
  case setpx c ix => cases hs; split <;> constructor <;> simp [returnOk_eq, raise_eq]
  case mkcol => cases hs; constructor <;> simp [returnOk_eq]
  case hue2rgb => cases hs; constructor <;> simp [returnOk_eq]
  case encode =>
    simp only [execEncode, andThen_eq_next, encodeFrame_eq_next] at hs
    obtain ⟨a, ⟨hf, rfl⟩, ht⟩ := hs
    cases ht; constructor <;> simp [returnOk_eq]
    exact .inr ⟨hf, .inl hrr⟩
  case transmit =>
    obtain ⟨r, hr', rfl⟩ := execTransmit_eq_next.1 hs
    have := transmitStep_effect hr' (afterTransmit_shape r)
    obtain ⟨a,b,c,d,e,f,g,h⟩ := this
    exact ⟨a,b,c,d,by simpa [hrr] using e,f,g, .inl (by
      rw [afterTransmit_shape]
      rcases transmitStep_cases hr' with ⟨hs, htf, hpv, rfl⟩ | ⟨hs, hx, rfl⟩ | ⟨q, hs, hd, rfl⟩ | ⟨T, q, hs, hd, hT,
          hle, rfl⟩ | ⟨q, hs, hd, hT, rfl⟩ <;> rfl)⟩
  case tstcancel => cases hs; constructor <;> simp [returnOk_eq]
  case clrcancel => cases hs; constructor <;> simp [returnOk_eq, hrr, hp, hd]
  case delay => cases hs; constructor <;> simp [returnOk_eq, waitMilliseconds]
  case patCycle =>
    simp only [execPatCycle, hrr] at hs
    obtain ⟨htf, rfl⟩ := startPattern_eq_next.1 hs
    constructor <;> simp
  case patRainbow =>
    simp only [execPatRainbow, hrr] at hs
    obtain ⟨htf, rfl⟩ := startPattern_eq_next.1 hs
    constructor <;> simp

/-- Every turn of the mainline stays within `MainEffect`. -/
theorem mainlineStep_effect {s t : State} (hs : mainlineStep s = .next t) : MainEffect s t := by
  rcases mainlineStep_cases hs with ⟨hr, _, rfl⟩ | ⟨C, rest, e, hr, _, _, rfl⟩ | ⟨C, rest, i, hr, hp, hd, hx⟩ | ⟨hr,
      hx⟩ | ⟨c, p, hr, hx⟩ | ⟨c, p, hr, hx⟩
  · constructor <;> simp
  · constructor <;> simp
  · exact exec_effect hr hp hd hx
  · obtain ⟨r, hr', rfl⟩ := execTransmit_eq_next.1 hx
    exact transmitStep_effect hr' (afterTransmit_shape r)
  · exact patternStep_effect hx (fun h => .inl ⟨c, by rw [hr, h]⟩)
  · exact patternStep_effect hx (fun h => .inr ⟨c, by rw [hr, h]⟩)

/-! ## The invariant -/

/-- The invariant reads only these fields. -/
theorem Inv_congr {s t : State} (h : s.Inv) (h1 : t.cfg = s.cfg) (h2 : t.frame = s.frame) (h3 : t.pulse = s.pulse)
    (h4 : t.pvalid = s.pvalid) (h5 : t.txfault = s.txfault) (h6 : t.done = s.done) (h7 : t.sync = s.sync)
    (h8 : t.xfer = s.xfer) (h9 : t.wire = s.wire) (h10 : t.run = s.run) : t.Inv := by
  obtain ⟨a,b,c,d,e,f,g,i,j,k,l,m,n,o⟩ := h
  constructor <;> simp only [h1,h2,h3,h4,h5,h6,h7,h8,h9,h10] <;> assumption

theorem Inv_fillFrame {s : State} (h : s.Inv) (c) :
    ({ s with frame := List.replicate s.cfg.leds c } : State).Inv := by
  obtain ⟨a,b,c',d,e,f,g,i,j,k,l,m,n,o⟩ := h
  exact ⟨a, ⟨by simp, b.2⟩, c', d, e, f, g, i, j, k, l, m, n, o⟩

theorem Inv_writeFrame {s : State} (h : s.Inv) (i c) : (writeFrame i c s).Inv := by
  obtain ⟨a,b,c',d,e,f,g,i,j,k,l,m,n,o⟩ := h
  exact ⟨a, ⟨by simpa using b.1, b.2⟩, c', d, e, f, g, i, j, k, l, m, n, o⟩

theorem Inv_respond {s : State} (h : s.Inv) (h1 : s.sync = .idle) (st v) : (respond st v s).Inv := by
  obtain ⟨a,b,c',d,e,f,g,i,j,k,l,m,n,o⟩ := h
  refine ⟨a, b, c', d, e, by simp [placeOk, h1], g, i, j, k, fun h => ?_, m, n, o⟩
  obtain ⟨l1, l2, l3, l4⟩ := l h
  exact ⟨l1, rfl, l3, l4⟩

end Sys2Proof.Machine
end

