-- ==== Sys2Proof/Tests/Slice0.lean ====
section
/-! SUPPORT. The model's own tests: the words and values of 95_test_vectors.md (the vector is named in each docstring),
the operand checks, and one witness for the hypotheses of each statement. -/

namespace Sys2Proof.Tests

open Sys2Proof.Machine

/-! ## Small states -/

/-- The constants of vector K12 with a bound of 2 polls: `L = 28`. -/
def k12 : Config where
  leds := 1
  resetPulses := 2
  period := 80
  dutyHigh := 40
  dutyLow := 20
  dutyBits := 16
  timeoutPolls := some 2
  cycleDwellMs := 500
  rainbowStepMs := 20

/-- The buffer of vector K12. -/
def k12Pulse : List Nat :=
  [0, 0, 20, 20, 20, 20, 20, 20, 20, 20, 40, 20, 40, 20, 40, 20, 40, 20, 20, 20, 20, 20, 20, 20, 20, 20, 0, 0]

/-- After reset, with the mainline's turn next. -/
def start : State := { State.powerOn k12 false (List.replicate 28 7) with turns := [.mainline] }

/-- The Frame of vector K12. -/
def drawn : State := { start with frame := [⟨170, 0, 0⟩] }

/-- After ENCODE. -/
def encoded : State := { drawn with pulse := k12Pulse, pvalid := true }

/-- After T1 of a TRANSMIT of the host. -/
def armedState : State := { encoded with sync := .armed, run := .transmit }

/-- In the wait, `k` entries out. -/
def waiting (k : Nat) : State :=
  { encoded with sync := .wait (some 0), run := .transmit, xfer := .busy k, wire := k12Pulse.take k }

/-- In the wait, the transfer over. -/
def finished : State := { waiting 28 with xfer := .idle, done := true }

/-- After a timeout. -/
def timedOut : State := { encoded with txfault := true, xfer := .hung 3, wire := [0, 0, 20] }

/-- The constants of K12 with `TIMEOUT_POLLS = INF`. -/
def unbounded : Config := { k12 with timeoutPolls := none }

/-- In a wait without a bound: no count is kept (45_arithmetic_control_access.md R152 (g)). -/
def waitingUnbounded : State := { waiting 5 with cfg := unbounded, sync := .wait none }

/-- At the transmission of a pattern, in the wait with one poll left. -/
def lastPollOf (run : Activity) : State := { waiting 5 with run := run, sync := .wait (some 1) }

/-- Two LEDs. -/
def two : State :=
  { State.powerOn { k12 with leds := 2 } false (List.replicate 52 7) with
    turns := [.mainline], frame := [⟨1, 2, 3⟩, ⟨4, 5, 6⟩] }

/-- `s` with the host's word `C` next. -/
def issued (s : State) (C : Word) : State := { s with pending := [C] }

/-- What the last response was after a step, if the step went on. -/
def lastResponse (o : Host.Outcome State Fault Refusal) : Option Rsp :=
  match o with
  | .next t => t.responses.getLast?
  | .fault _ => none
  | .refused _ => none

/-- The Frame after a step, if the step went on. -/
def frameAfter (o : Host.Outcome State Fault Refusal) : Option (List Colour) :=
  match o with
  | .next t => some t.frame
  | .fault _ => none
  | .refused _ => none

/-- The buffer after a step, if the step went on. -/
def pulseAfter (o : Host.Outcome State Fault Refusal) : Option (List Nat) :=
  match o with
  | .next t => some t.pulse
  | .fault _ => none
  | .refused _ => none

/-- The fault a step stops with, if it does. -/
def faultOf (o : Host.Outcome State Fault Refusal) : Option Fault :=
  match o with
  | .next _ => none
  | .fault f => some f
  | .refused _ => none

/-! ## Decoding (95_test_vectors.md section 2.6, and the words of sections 2.1 to 2.5) -/

/-- The value of a decoding, in a type that can be compared. -/
def read (C : Word) : Option Instr := (decode C).toOption

/-- D1, and the words of V1. -/
theorem test_decode_frame_commands :
    read 0x0100000000000000 = some .newf ∧ read 0x0200000000000000 = some .clrf ∧
    read 0x0312345600000000 = some (.fillf ⟨18, 52, 86⟩) := by decide

/-- D3, V7, V8: the index is the unsigned immediate. -/
theorem test_decode_colour_operands :
    read 0x0480402000000001 = some (.setpx ⟨128, 64, 32⟩ 1) ∧
    read 0x04090909FFFFFFFF = some (.setpx ⟨9, 9, 9⟩ 4294967295) ∧
    read 0x05AA000000000000 = some (.mkcol ⟨170, 0, 0⟩) := by decide

/-- D4, H13, H20: the hue is the signed immediate. -/
theorem test_decode_hue :
    read 0x06000000FFFFFFFF = some (.hue2rgb (-1)) ∧ read 0x0600000000000D2C = some (.hue2rgb 3372) ∧
    read 0x0600000080000000 = some (.hue2rgb (-2147483648)) := by decide

/-- D15 and the words of sections 2.3 and 2.5. -/
theorem test_decode_transmission_and_cancellation :
    read 0x1000000000000000 = some .encode ∧ read 0x1100000000000000 = some .transmit ∧
    read 0x2000000000000000 = some .tstcancel ∧ read 0x2100000000000000 = some .clrcancel := by decide

/-- D5, D6, Q5, Q9: the delay is the unsigned immediate. -/
theorem test_decode_delay_and_patterns :
    read 0x2200000000000014 = some (.delay 20) ∧ read 0x22000000FFFFFFFF = some (.delay 4294967295) ∧
    read 0x3000000000000000 = some .patCycle ∧ read 0x3100000000000000 = some .patRainbow := by decide

/-- D7 to D9, D16: unassigned opcodes. -/
theorem test_decode_unassigned :
    read 0x0000000000000000 = none ∧ read 0x0700000000000000 = none ∧ read 0xFF00000000000000 = none ∧
    read 0x1200000000000000 = none := by decide

/-- D10 to D14: non-zero reserved fields. -/
theorem test_decode_reserved :
    read 0x0200000000000001 = none ∧ read 0x0301020300000005 = none ∧ read 0x0601000000000100 = none ∧
    read 0x1000010000000000 = none ∧ read 0x2200000100000014 = none := by decide

/-- The printed forms of D1 to D5 (30_encoding.md R77). -/
theorem test_asm :
    Instr.asm .newf = "NEWF" ∧ Instr.asm (.fillf ⟨18, 52, 86⟩) = "FILLF (18, 52, 86)" ∧
    Instr.asm (.setpx ⟨128, 64, 32⟩ 1) = "SETPX (128, 64, 32), 1" ∧ Instr.asm (.hue2rgb (-1)) = "HUE2RGB -1" := by
  decide

/-- The host's two entries, evaluated by the kernel on D5: decoding, and running as the first command after reset. -/
theorem test_host_entries :
    decodeTableWord 64 0x2200000000000014 = some (.delay 20) ∧
    lastResponse (step (State.reset.withFetchWord 64 0x2200000000000014)) = some 0 := ⟨by decide, rfl⟩

/-! ## Operand checks: an ill-formed term for each -/

theorem test_wf_index_negative : (Instr.setpx black (-1)).wf = false := by decide

theorem test_wf_index_too_large : (Instr.setpx black 4294967296).wf = false := by decide

theorem test_wf_hue_too_small : (Instr.hue2rgb (-2147483649)).wf = false := by decide

theorem test_wf_hue_too_large : (Instr.hue2rgb 2147483648).wf = false := by decide

theorem test_wf_delay_too_long : (Instr.delay 4294967296).wf = false := by decide

/-! ## One step of each command -/

/-- V5. -/
theorem test_newf : frameAfter (step (issued two 0x0100000000000000)) = some [⟨0, 0, 0⟩, ⟨0, 0, 0⟩] := by decide

/-- V1, its first command. -/
theorem test_clrf : frameAfter (step (issued two 0x0200000000000000)) = some [⟨0, 0, 0⟩, ⟨0, 0, 0⟩] := by decide

/-- V2, with two LEDs. -/
theorem test_fillf :
    frameAfter (step (issued two 0x03FF000000000000)) = some [⟨255, 0, 0⟩, ⟨255, 0, 0⟩] := by decide

/-- V4: the highest legal index. -/
theorem test_setpx_last :
    frameAfter (step (issued two 0x0409080700000001)) = some [⟨1, 2, 3⟩, ⟨9, 8, 7⟩] := by decide

/-- V7: the index is not reduced and not negative. -/
theorem test_setpx_out_of_range :
    lastResponse (step (issued two 0x04090909FFFFFFFF)) = some 0x01000000 ∧
    frameAfter (step (issued two 0x04090909FFFFFFFF)) = some [⟨1, 2, 3⟩, ⟨4, 5, 6⟩] := by decide

/-- V8. -/
theorem test_mkcol : lastResponse (step (issued two 0x05AA000000000000)) = some 0x00AA0000 := by decide

/-- H3, H8 and H13. -/
theorem test_hue2rgb :
    hueToRgb 257 = ⟨254, 255, 0⟩ ∧ hueToRgb 1279 = ⟨255, 0, 255⟩ ∧
    lastResponse (step (issued two 0x0600000000000D2C)) = some 0x00D3FF00 := by decide

/-- H15, H16, H20: floor modulo, and the whole range of the immediate. -/
theorem test_hue2rgb_negative :
    hueToRgb (-1) = ⟨255, 0, 0⟩ ∧ hueToRgb (-256) = ⟨255, 0, 255⟩ ∧ hueToRgb (-2147483648) = ⟨0, 0, 255⟩ := by decide

/-- K12. -/
theorem test_encode : pulseAfter (step (issued drawn 0x1000000000000000)) = some k12Pulse := by decide

/-- K4: the data region of one LED, with the reference duty values. -/
theorem test_encode_bit_order :
    ledEntries { k12 with dutyHigh := 30, dutyLow := 15 } ⟨18, 52, 86⟩ =
      [15, 15, 30, 30, 15, 30, 15, 15, 15, 15, 15, 30, 15, 15, 30, 15, 15, 30, 15, 30, 15, 30, 30, 15] := by decide

/-- S3: T1 discards the preset completion. -/
theorem test_transmit_first_step :
    step (issued { encoded with done := true } 0x1100000000000000) =
      .next { armedState with turns := [], tick := 1 } := rfl

/-- S12, with the constants of K12: an unsuccessful poll without a bound leaves the state as it is. -/
theorem test_transmit_unbounded_poll :
    step waitingUnbounded = .next { waitingUnbounded with turns := [], tick := 1 } := rfl

/-- Q1. -/
theorem test_tstcancel :
    lastResponse (step (issued { two with cancel := true } 0x2000000000000000)) = some 1 ∧
    lastResponse (step (issued two 0x2000000000000000)) = some 0 := by decide

/-- Q2. -/
theorem test_clrcancel :
    step (issued { start with cancel := true } 0x2100000000000000) =
      .next { start with turns := [], tick := 1, responses := [0] } := rfl

/-- Q9. -/
theorem test_delay :
    step (issued start 0x22000000FFFFFFFF) = .next { start with turns := [], tick := 1, responses := [0] } := rfl

/-- Q5: the first iteration is red, whatever `cancel` is. -/
theorem test_pat_cycle :
    frameAfter (step (issued { two with cancel := true } 0x3000000000000000)) =
      some [⟨255, 0, 0⟩, ⟨255, 0, 0⟩] := by decide

/-- Q6: the fourth colour. -/
theorem test_pat_rainbow :
    frameAfter (step { start with run := .rainbow 3 .fill }) = some [⟨255, 3, 0⟩] := by decide

/-- D7: the answer to an illegal word. -/
theorem test_illegal_word : lastResponse (step (issued two 0)) = some 0x04000000 := by decide

/-- K14 and K13: a period of the line, and the inverse of the encoding. -/
theorem test_line_and_inverse :
    wave { k12 with period := 60 } 15 = List.replicate 15 true ++ List.replicate 45 false ∧
    decodeTransfer k12 k12Pulse = some [⟨170, 0, 0⟩] := by decide

/-! ## Witnesses: a concrete state that meets the hypotheses of each statement -/

theorem witness_DecodeOfEncodeIsTheCommand :
    (Instr.setpx black 0).wf = true ∧ (Instr.setpx black 4294967295).wf = true ∧
    (Instr.hue2rgb (-2147483648)).wf = true ∧ (Instr.hue2rgb 2147483647).wf = true ∧
    (Instr.delay 4294967295).wf = true ∧ Instr.patRainbow.wf = true := by decide

theorem witness_EncodeOfDecodeIsTheWord :
    decode 0x0480402000000001 = .ok (.setpx ⟨128, 64, 32⟩ 1) := by rfl

theorem witness_RowsOfTheTableSelectTheirCommands :
    (0x0480402000000001 : Word) &&& Opcode.setpx.maskMatch.1 = Opcode.setpx.maskMatch.2 := by decide

theorem witness_StepRunsTheDecodedCommand :
    nextTurn (issued two 0x05AA000000000000) = .mainline ∧ (issued two 0x05AA000000000000).run = .host ∧
    (issued two 0x05AA000000000000).pending = 0x05AA000000000000 :: [] ∧
    decode 0x05AA000000000000 = .ok (.mkcol ⟨170, 0, 0⟩) := ⟨rfl, rfl, rfl, rfl⟩

theorem witness_StepContinuesTheCommandInProgress :
    (nextTurn (waiting 0) = .mainline ∧ (waiting 0).run = .transmit) ∧
    (nextTurn { start with run := .cycle .red .fill } = .mainline) ∧
    (nextTurn { start with run := .rainbow 1535 .check } = .mainline) ∧
    (nextTurn start = .mainline ∧ start.run = .host ∧ start.pending = []) := by decide

theorem witness_IllegalWordIsAnsweredAndChangesNothing :
    nextTurn (issued two 0x1200000000000000) = .mainline ∧ (issued two 0x1200000000000000).run = .host ∧
    (issued two 0x1200000000000000).pending = 0x1200000000000000 :: [] ∧
    ∀ o ∈ Opcode.all, (0x1200000000000000 : Word) &&& o.maskMatch.1 ≠ o.maskMatch.2 := by decide

/-- The first and the last entry. -/
theorem witness_EngineEmitsTheNextEntry :
    (nextTurn { waiting 0 with turns := [.engine] } = .engine ∧ (waiting 0).xfer = .busy 0 ∧
      0 < k12.bufferLen ∧ (waiting 0).pulse[0]? = some 0) ∧
    (nextTurn { waiting 27 with turns := [.engine] } = .engine ∧ (waiting 27).xfer = .busy 27 ∧
      27 < k12.bufferLen ∧ (waiting 27).pulse[27]? = some 0) := by decide

theorem witness_EngineCompletesAfterTheLastEntry :
    nextTurn { waiting 28 with turns := [.engine] } = .engine ∧ (waiting 28).xfer = .busy k12.bufferLen := by decide

theorem witness_EngineHangsForGood :
    (nextTurn { waiting 28 with turns := [.engineHang] } = .engineHang ∧ (waiting 28).xfer = .busy 28) ∧
    (nextTurn { timedOut with turns := [.engine] } = .engine ∧ ∀ k, timedOut.xfer ≠ .busy k) ∧
    (nextTurn { start with turns := [.engineHang] } = .engineHang ∧ ∀ k, start.xfer ≠ .busy k) :=
  ⟨by decide, ⟨rfl, by intro k h; cases h⟩, ⟨rfl, by intro k h; cases h⟩⟩

theorem witness_ButtonSetsCancelAndNothingElse : nextTurn { start with turns := [.button] } = .button := rfl

/-- The two sides run: a press and the end of a transfer. -/
theorem witness_ButtonAndEngineCommute :
    runSteps 2 { waiting 28 with turns := [.button, .engine] } =
      .next { finished with turns := [], tick := 2, cancel := true } := rfl

/-- Both ends of the range, and the nearest values outside it. -/
theorem witness_SetpxSetsOneElementOrReports :
    two.frame.length = two.cfg.leds ∧ ((0 : Int) ≤ 0 ∧ (0 : Int) < two.cfg.leds) ∧
    ((0 : Int) ≤ 1 ∧ (1 : Int) < two.cfg.leds) ∧ ((-1 : Int) < 0) ∧ ((two.cfg.leds : Int) ≤ 2) := by decide

theorem witness_ResponsesHaveTheDecidedLayout :
    drawn.txfault = false ∧ ((0 : Int) ≤ 0 ∧ (0 : Int) < drawn.cfg.leds) ∧ ((drawn.cfg.leds : Int) ≤ 1) := by decide

/-- Both ends of the ramp variable. -/
theorem witness_HueFollowsTheTable : 0 < 256 ∧ 255 < 256 := by decide

theorem witness_EncodeWritesEveryEntry :
    drawn.frame.length = drawn.cfg.leds ∧ drawn.txfault = false ∧ drawn.frame[0]? = some ⟨170, 0, 0⟩ := by decide

theorem witness_EncodedBufferDecodesToTheFrame :
    drawn.cfg.wf ∧ drawn.frame.length = drawn.cfg.leds ∧
    exec .encode drawn = .next { encoded with responses := [0] } := ⟨by decide, rfl, rfl⟩

/-- S11: the state after reset. -/
theorem witness_TransmitNeedsAnEncodedBuffer :
    start.sync = .idle ∧ start.txfault = false ∧ start.pvalid = false ∧
    faultOf (step (issued start 0x1100000000000000)) = some .transmitBeforeEncode := by decide

theorem witness_CommandsAfterATimeoutHaveNoMeaning :
    timedOut.txfault = true ∧ timedOut.sync = .idle ∧ timedOut.run = .host := by decide

theorem witness_TransmitFirstClearsDone :
    encoded.sync = .idle ∧ encoded.pvalid = true ∧ encoded.txfault = false := by decide

theorem witness_TransmitThenStartsTheTransfer : armedState.sync = .armed ∧ armedState.xfer = .idle := by decide

theorem witness_StartOnABusyEngineHasNoMeaning :
    ({ armedState with xfer := .busy 0 } : State).sync = .armed ∧
    ({ armedState with xfer := .busy 0 } : State).xfer ≠ .idle := by decide

/-- The clauses, at the bound, below it, and with no bound. -/
theorem witness_TransmitPollsTheCompletionSignal :
    (finished.sync = .wait (some 0) ∧ finished.done = true) ∧
    ((lastPollOf .transmit).sync = .wait (some 1) ∧ (lastPollOf .transmit).done = false ∧
      (lastPollOf .transmit).cfg.timeoutPolls = some 2 ∧ 2 ≤ 1 + 1) ∧
    ((waiting 5).sync = .wait (some 0) ∧ (waiting 5).done = false ∧ (waiting 5).cfg.timeoutPolls = some 2 ∧
      0 + 1 < 2) ∧
    (waitingUnbounded.sync = .wait none ∧ waitingUnbounded.done = false ∧
      waitingUnbounded.cfg.timeoutPolls = none) := by decide

/-- The start, and the four points that are not the transmission, at the last colour; the checkpoint both ways. -/
theorem witness_CyclePatternFollowsItsLoop :
    (start.run = .host ∧ start.txfault = false) ∧
    (CycleColour.blue, (⟨0, 0, 255⟩ : Colour), CycleColour.red) ∈
      [(CycleColour.red, (⟨255, 0, 0⟩ : Colour), CycleColour.green), (.green, ⟨0, 255, 0⟩, .blue),
        (.blue, ⟨0, 0, 255⟩, .red)] ∧
    ({ start with run := .cycle .blue .fill } : State).run = .cycle .blue .fill ∧
    (({ start with run := .cycle .blue .encode } : State).run = .cycle .blue .encode ∧ start.txfault = false) ∧
    ({ start with run := .cycle .blue .delay } : State).run = .cycle .blue .delay ∧
    (({ start with run := .cycle .blue .check } : State).run = .cycle .blue .check ∧ start.cancel = false) ∧
    (({ start with run := .cycle .blue .check, cancel := true } : State).run = .cycle .blue .check) := by decide

/-- The start, and the four points that are not the transmission, at the last hue; the checkpoint both ways. -/
theorem witness_RainbowPatternFollowsItsLoop :
    (start.run = .host ∧ start.txfault = false) ∧
    ({ start with run := .rainbow 1535 .fill } : State).run = .rainbow 1535 .fill ∧
    (({ start with run := .rainbow 1535 .encode } : State).run = .rainbow 1535 .encode ∧ start.txfault = false) ∧
    ({ start with run := .rainbow 1535 .delay } : State).run = .rainbow 1535 .delay ∧
    (({ start with run := .rainbow 1535 .check } : State).run = .rainbow 1535 .check ∧ start.cancel = false) ∧
    (({ start with run := .rainbow 1535 .check, cancel := true } : State).run = .rainbow 1535 .check) := by decide

/-- Each clause at a pattern's transmission: T1, T2, the poll that succeeds, the last one allowed, one that is counted,
and one without a bound. -/
theorem witness_PatternTransmitsAsTransmitDoes :
    (({ encoded with run := .rainbow 0 .transmit } : State).sync = .idle ∧ encoded.pvalid = true ∧
      encoded.txfault = false) ∧
    (({ armedState with run := .cycle .red .transmit } : State).sync = .armed ∧ armedState.xfer = .idle) ∧
    (({ finished with run := .cycle .red .transmit } : State).sync = .wait (some 0) ∧ finished.done = true) ∧
    ((lastPollOf (.rainbow 7 .transmit)).run = .rainbow 7 .transmit ∧
      (lastPollOf (.rainbow 7 .transmit)).sync = .wait (some 1) ∧ (lastPollOf (.rainbow 7 .transmit)).done = false ∧
      (lastPollOf (.rainbow 7 .transmit)).cfg.timeoutPolls = some 2 ∧ 2 ≤ 1 + 1) ∧
    (({ waiting 5 with run := .cycle .blue .transmit } : State).sync = .wait (some 0) ∧ (waiting 5).done = false ∧
      (waiting 5).cfg.timeoutPolls = some 2 ∧ 0 + 1 < 2) ∧
    (({ waitingUnbounded with run := .cycle .blue .transmit } : State).sync = .wait none ∧
      waitingUnbounded.done = false ∧ waitingUnbounded.cfg.timeoutPolls = none) := by decide

/-- Both patterns: at the checkpoint that ends one, at the point before it, and at the poll that times out. -/
theorem witness_CancelledPatternStaysInItsIteration :
    (∃ t, step { start with cancel := true, run := .cycle .green .check } = .next t ∧ t.run = .host) ∧
    (∃ t, step { start with cancel := true, run := .rainbow 7 .delay } = .next t ∧ t.run = .rainbow 7 .check) ∧
    (∃ t, step { lastPollOf (.cycle .green .transmit) with cancel := true } = .next t ∧ t.run = .host ∧
      t.txfault = true) ∧
    (∃ t, step { lastPollOf (.rainbow 7 .transmit) with cancel := true } = .next t ∧ t.run = .host ∧
      t.txfault = true) :=
  ⟨⟨_, rfl, rfl⟩, ⟨_, rfl, rfl⟩, ⟨_, rfl, rfl, rfl⟩, ⟨_, rfl, rfl, rfl⟩⟩

theorem witness_ResetLeavesTheStatedValues :
    State.powerOn k12 true k12Pulse = State.powerOn k12 true k12Pulse ∧ 0 < k12.leds := by decide

/-! The invariant holds in each of the small states. -/

theorem start_inv : start.Inv := by constructor <;> decide

theorem encoded_inv : encoded.Inv := by constructor <;> decide

theorem armedState_inv : armedState.Inv := by constructor <;> decide

theorem waiting_inv : (waiting 5).Inv := by constructor <;> decide

theorem waitingUnbounded_inv : waitingUnbounded.Inv := by constructor <;> decide

theorem finished_inv : finished.Inv := by constructor <;> decide

theorem timedOut_inv : timedOut.Inv := by constructor <;> decide

/-- A step of the mainline and one of the engine, from states that meet the invariant. -/
theorem witness_StepKeepsTheInvariant :
    (armedState.Inv ∧ ∃ t, step armedState = .next t ∧ t.xfer = .busy 0) ∧
    ((waiting 5).Inv ∧ ∃ t, step { waiting 5 with turns := [.engine] } = .next t ∧ t.xfer = .busy 6) :=
  ⟨⟨armedState_inv, _, rfl, rfl⟩, waiting_inv, _, rfl, rfl⟩

theorem witness_StepLeavesNoStaleCompletion :
    finished.Inv ∧ finished.NoStale ∧ ∃ t, step finished = .next t ∧ t.sync = .idle :=
  ⟨finished_inv, by decide, _, rfl, rfl⟩

/-- One whole transfer and none in flight, and the front of the first one. -/
theorem witness_StepKeepsWholeTransfers :
    (finished.Inv ∧ finished.WholeTransfers ∧ ∃ t, step finished = .next t) ∧
    ((waiting 5).Inv ∧ (waiting 5).WholeTransfers ∧ ∃ t, step { waiting 5 with turns := [.engine] } = .next t) :=
  ⟨⟨finished_inv, ⟨fun _ => ⟨[⟨170, 0, 0⟩], rfl, rfl⟩, [[⟨170, 0, 0⟩]], by decide, rfl, rfl⟩, _, rfl⟩,
    waiting_inv, ⟨fun _ => ⟨[⟨170, 0, 0⟩], rfl, rfl⟩, [], by decide, rfl, rfl⟩, _, rfl⟩

theorem witness_ParametersNeverChange : ∃ t, Reaches finished t ∧ t.sync = .idle :=
  ⟨_, .tail .refl rfl, rfl⟩

theorem witness_HiddenMarksAreNeverCleared :
    ∃ t, Reaches { timedOut with pending := [0x2100000000000000] } t ∧ timedOut.pvalid = true ∧
      timedOut.txfault = true ∧ t.responses = [0] := ⟨_, .tail .refl rfl, rfl, rfl, rfl⟩

theorem witness_WireGrowsOneEntryAtATime :
    ∃ t, step { waiting 10 with turns := [.engine] } = .next t ∧ t.wire = (waiting 10).wire ++ [40] :=
  ⟨_, rfl, rfl⟩

/-- A set, the clear of T1 and the clear of the poll. -/
theorem witness_DoneIsSetAndClearedOnlyAsStated :
    (∃ t, step { waiting 28 with turns := [.engine] } = .next t ∧ (waiting 28).done = false ∧ t.done = true) ∧
    (∃ t, step (issued { encoded with done := true } 0x1100000000000000) = .next t ∧ t.done = false) ∧
    (∃ t, step finished = .next t ∧ finished.done = true ∧ t.done = false) :=
  ⟨⟨_, rfl, rfl, rfl⟩, ⟨_, rfl, rfl⟩, ⟨_, rfl, rfl, rfl⟩⟩

theorem witness_CancelIsSetAndClearedOnlyAsStated :
    (∃ t, step { start with turns := [.button] } = .next t ∧ start.cancel = false ∧ t.cancel = true) ∧
    (∃ t, step (issued { start with cancel := true } 0x2100000000000000) = .next t ∧ t.cancel = false) :=
  ⟨⟨_, rfl, rfl, rfl⟩, ⟨_, rfl, rfl⟩⟩

theorem witness_OtherAgentsWriteOnlyTheirOwnState :
    nextTurn { waiting 5 with turns := [.engine] } ≠ .mainline := by decide

theorem witness_PulseBufferIsNotWrittenWhileLent :
    (waiting 5).Inv ∧ (waiting 5).xfer ≠ .idle ∧ ∃ t, step (waiting 5) = .next t :=
  ⟨waiting_inv, by decide, _, rfl⟩

theorem witness_TransferStartsWithDoneClear :
    armedState.Inv ∧ ∃ t, step armedState = .next t ∧ armedState.xfer = .idle ∧ t.xfer ≠ .idle :=
  ⟨armedState_inv, _, rfl, rfl, by decide⟩

theorem witness_MainlineDoesNothingElseDuringTransmit :
    (waiting 5).Inv ∧ (waiting 5).sync ≠ .idle ∧ nextTurn (waiting 5) = .mainline ∧
    ∃ t, step (waiting 5) = .next t := ⟨waiting_inv, by decide, rfl, _, rfl⟩

/-- `k` steps, each of which starts inside a TRANSMIT. -/
def insideFor : Nat → State → Option State
  | 0, s => some s
  | k + 1, s =>
    match s.sync, step s with
    | .armed, .next t => insideFor k t
    | .wait _, .next t => insideFor k t
    | _, _ => none

theorem inTransmit_of_insideFor {a : State} (k : Nat) : ∀ {s t : State}, InTransmit a s → insideFor k s = some t →
    InTransmit a t := by
  induction k with
  | zero => intro s t h e; cases e; exact h
  | succ k ih =>
    intro s t h e
    unfold insideFor at e
    split at e
    · exact ih (.tail h (by simp [*]) ‹_›) e
    · exact ih (.tail h (by simp [*]) ‹_›) e
    · cases e

/-- The schedule of a transfer in time for the constants of K12, from T1 on: a turn of the idle engine before T2, one
unsuccessful poll in the transfer, a press after it. -/
def sendTurns : List Turn :=
  .mainline :: .engine :: .mainline :: .engine :: .mainline :: (List.replicate 27 .engine ++
    [.engine, .button, .mainline])

theorem sendTurns_inTime : TransferInTime k12 sendTurns :=
  ⟨[], [.engine], .engine :: .mainline :: List.replicate 27 .engine, [.button], by decide, by decide, by decide,
    by decide, by decide, by intro T h; cases h; decide, rfl⟩

/-- The schedule of one iteration of a pattern, with a press before the fill and one during the delay. -/
def showTurns : List Turn := .button :: .mainline :: .mainline :: (sendTurns ++ [.mainline, .button, .mainline])

theorem showTurns_inTime : IterationInTime k12 showTurns :=
  ⟨[.button], [], sendTurns, [], [.button], by decide, by decide, sendTurns_inTime, by decide, by decide, rfl⟩

/-- The host's TRANSMIT with the engine in time. -/
def sending : State := issued { encoded with turns := sendTurns } 0x1100000000000000

theorem sending_inv : sending.Inv := by constructor <;> decide

/-- A pattern's transmission with the engine in time. -/
def patternSending : State := { encoded with turns := sendTurns, run := .cycle .green .transmit }

theorem patternSending_inv : patternSending.Inv := by constructor <;> decide

/-- S2 and S8, with the constants of K12: an unsuccessful poll, and a press during the wait; for the host and for a
pattern. -/
theorem witness_TransmitReturnsOnlyAfterTheWholeBuffer :
    (∃ s1 t, sending.Inv ∧ sending.sync = .idle ∧ step sending = .next s1 ∧ s1.sync = .armed ∧ InTransmit s1 t ∧
      t.sync = .idle ∧ t.txfault = false ∧ s1.run = .transmit ∧ t.wire = k12Pulse ∧ t.cancel = true) ∧
    (∃ s1 t, patternSending.Inv ∧ patternSending.sync = .idle ∧ step patternSending = .next s1 ∧ s1.sync = .armed ∧
      InTransmit s1 t ∧ t.sync = .idle ∧ t.txfault = false ∧ s1.run = .cycle .green .transmit) :=
  ⟨⟨_, _, sending_inv, rfl, rfl, rfl, inTransmit_of_insideFor 34 .refl rfl, rfl, rfl, rfl, rfl, rfl⟩,
    ⟨_, _, patternSending_inv, rfl, rfl, rfl, inTransmit_of_insideFor 34 .refl rfl, rfl, rfl, rfl⟩⟩

/-- The host's TRANSMIT with an engine that hangs after one entry. -/
def failing : State :=
  issued { encoded with turns := [.mainline, .mainline, .engine, .engineHang, .mainline, .mainline] }
    0x1100000000000000

theorem failing_inv : failing.Inv := by constructor <;> decide

/-- S4, with the constants of K12. -/
theorem witness_TimeoutLeavesTheTransferInFlight :
    ∃ s1 t, failing.Inv ∧ failing.sync = .idle ∧ step failing = .next s1 ∧ s1.sync = .armed ∧ InTransmit s1 t ∧
      t.sync = .idle ∧ t.txfault = true ∧ t.xfer = .hung 1 :=
  ⟨_, _, failing_inv, rfl, rfl, rfl, inTransmit_of_insideFor 5 .refl rfl, rfl, rfl, rfl⟩

/-- The host's SHOW with the engine in time, a press before it. -/
def showing : State :=
  { drawn with pending := showExpansion.map encode, turns := .button :: .mainline :: sendTurns }

theorem showing_inv : showing.Inv := by constructor <;> decide

theorem witness_ShowSendsTheEncodedFrame :
    showing.Inv ∧ showing.run = .host ∧ showing.txfault = false ∧
    showing.pending = showExpansion.map encode ++ [] ∧ Quiet [.button] ∧ TransferInTime showing.cfg sendTurns ∧
    showing.turns = [.button] ++ .mainline :: (sendTurns ++ []) :=
  ⟨showing_inv, rfl, rfl, rfl, by decide, sendTurns_inTime, rfl⟩

theorem witness_TransmitGivesUpAfterTheBound :
    (waiting 5).run = .transmit ∧ (waiting 5).sync = .wait (some 0) ∧ (waiting 5).done = false ∧
    (waiting 5).cfg.timeoutPolls = some 2 ∧ 0 < 2 ∧
    ({ waiting 5 with turns := [.mainline, .mainline] } : State).turns = List.replicate (2 - 0) .mainline ++ [] := by
  decide

/-- In the wait with the engine's steps, a press and a hang among the polls that are left. -/
def polled : State := { waiting 5 with turns := [.engine, .mainline, .button, .engineHang, .mainline] }

theorem polled_inv : polled.Inv := by constructor <;> decide

theorem witness_TransmitReturnsWithinTheBound :
    polled.Inv ∧ polled.sync = .wait (some 0) ∧ polled.cfg.timeoutPolls = some 2 ∧
    [Turn.engine, .mainline, .button, .engineHang, .mainline].count .mainline = 2 - 0 ∧
    polled.turns = [.engine, .mainline, .button, .engineHang, .mainline] ++ [] :=
  ⟨polled_inv, rfl, rfl, rfl, rfl⟩

/-- The Cycle at green, and the host's PAT_CYCLE, the engine in time. -/
def cycling : State := { encoded with run := .cycle .green .fill, turns := showTurns }

def cycleIssued : State := issued { start with turns := showTurns } 0x3000000000000000

theorem cycling_inv : cycling.Inv := by constructor <;> decide

theorem cycleIssued_inv : cycleIssued.Inv := by constructor <;> decide

theorem witness_CycleIterationSendsOneFrame :
    (cycling.Inv ∧ cycling.run = .cycle .green .fill ∧ cycling.pending = [] ∧
      IterationInTime cycling.cfg showTurns ∧ cycling.turns = showTurns ++ []) ∧
    (cycleIssued.Inv ∧ cycleIssued.run = .host ∧ cycleIssued.txfault = false ∧
      cycleIssued.pending = encode .patCycle :: [] ∧ IterationInTime cycleIssued.cfg showTurns ∧
      cycleIssued.turns = showTurns ++ []) :=
  ⟨⟨cycling_inv, rfl, rfl, showTurns_inTime, rfl⟩, cycleIssued_inv, rfl, rfl, rfl, showTurns_inTime, rfl⟩

/-- The Rainbow at its last hue, and the host's PAT_RAINBOW, the engine in time. -/
def ramping : State := { encoded with run := .rainbow 1535 .fill, turns := showTurns }

def rainbowIssued : State := issued { start with turns := showTurns } 0x3100000000000000

theorem ramping_inv : ramping.Inv := by constructor <;> decide

theorem rainbowIssued_inv : rainbowIssued.Inv := by constructor <;> decide

theorem witness_RainbowIterationSendsOneFrame :
    (ramping.Inv ∧ ramping.run = .rainbow 1535 .fill ∧ ramping.pending = [] ∧
      IterationInTime ramping.cfg showTurns ∧ ramping.turns = showTurns ++ []) ∧
    (rainbowIssued.Inv ∧ rainbowIssued.run = .host ∧ rainbowIssued.txfault = false ∧
      rainbowIssued.pending = encode .patRainbow :: [] ∧ IterationInTime rainbowIssued.cfg showTurns ∧
      rainbowIssued.turns = showTurns ++ []) :=
  ⟨⟨ramping_inv, rfl, rfl, showTurns_inTime, rfl⟩, rainbowIssued_inv, rfl, rfl, rfl, showTurns_inTime, rfl⟩

/-- Each of the three symbols, and both ends of the period. -/
theorem witness_WaveformOfOneEntry :
    k12.wf ∧ k12.isSymbol 0 ∧ k12.isSymbol 20 ∧ k12.isSymbol 40 ∧ 0 < k12.period ∧ 79 < k12.period := by decide

theorem witness_TransfersLastOnePeriodAnEntry : timedOut.Inv ∧ timedOut.wire.length = 3 := ⟨timedOut_inv, rfl⟩

end Sys2Proof.Tests
end

section
/-! PROOFS. The colour and frame commands (40_colour_frame.md): the state each command answers with, then the
statements. -/

namespace Sys2Proof.Machine

/-! ## The state a command answers with -/

theorem exec_mkcol (c : Colour) (s : State) : exec (.mkcol c) s = .next (respond .ok (colourValue c) s) := rfl

theorem exec_clrf (s : State) : exec .clrf s = .next (respond .ok 0 (fillFrame black s)) := rfl

theorem exec_fillf (c : Colour) (s : State) : exec (.fillf c) s = .next (respond .ok 0 (fillFrame c s)) := rfl

theorem indexInRange_eq_true {cfg : Config} {index : Int} :
    indexInRange cfg index = true ↔ 0 ≤ index ∧ index < cfg.leds := decide_eq_true_iff

theorem exec_setpx_of_inRange {index : Int} {s : State} (c : Colour) (h : 0 ≤ index ∧ index < s.cfg.leds) :
    exec (.setpx c index) s = .next (respond .ok 0 (writeFrame index.toNat c s)) :=
  congrArg Host.Outcome.next (if_pos (indexInRange_eq_true.2 h))

theorem exec_setpx_of_outOfRange {index : Int} {s : State} (c : Colour) (h : ¬ (0 ≤ index ∧ index < s.cfg.leds)) :
    exec (.setpx c index) s = .next (respond .indexOutOfRange 0 s) :=
  congrArg Host.Outcome.next (if_neg (mt indexInRange_eq_true.1 h))

/-! ## What a response and a memory operation leave together -/

theorem respond_fillFrame_eq (st : Status) (v : BitVec 24) (c : Colour) (s : State) :
    respond st v (fillFrame c s) =
      { s with frame := List.replicate s.cfg.leds c, run := .host, responses := s.responses ++ [responseWord st v] } :=
  rfl

theorem respond_writeFrame_eq (st : Status) (v : BitVec 24) (i : Nat) (c : Colour) (s : State) :
    respond st v (writeFrame i c s) =
      { s with frame := s.frame.set i c, run := .host, responses := s.responses ++ [responseWord st v] } := rfl

theorem fillFrame_length (c : Colour) (s : State) : (fillFrame c s).frame.length = s.cfg.leds := by simp

/-- Every element reads as the colour after a fill (40_colour_frame.md R93). -/
theorem readFrame_fillFrame {s : State} {i : Nat} (c : Colour) (h : i < s.cfg.leds) :
    readFrame i (fillFrame c s) = some c := List.getElem?_replicate_of_lt h

theorem writeFrame_length (i : Nat) (c : Colour) (s : State) : (writeFrame i c s).frame.length = s.frame.length := by
  simp

/-- A write at an integer index in range, read back at every element (40_colour_frame.md R94). -/
theorem readFrame_writeFrame_toNat {s : State} {index : Int} (c : Colour) (h0 : 0 ≤ index)
    (hN : index < s.frame.length) (i : Nat) :
    readFrame i (writeFrame index.toNat c s) = if (i : Int) = index then some c else readFrame i s := by
  have hi : i = index.toNat ↔ (i : Int) = index := by omega
  rw [readFrame_writeFrame _ _ _ (by omega)]
  simp only [hi]

/-! ## The statements -/

/-- Settles O17: the range check decides which of the two answers is given; in range, a read after the one write gives
the colour at `index` and the old element elsewhere. -/
theorem setpxSetsOneElementOrReports : Obligations.SetpxSetsOneElementOrReports := by
  intro s c index hlen
  by_cases h : 0 ≤ index ∧ index < s.cfg.leds
  · obtain ⟨h0, hN⟩ := h
    refine ⟨_, .ok, 0, exec_setpx_of_inRange c ⟨h0, hN⟩, respond_writeFrame_eq .., ?_, fun _ _ => ⟨rfl, ?_⟩, ?_⟩
    · exact (writeFrame_length _ c s).trans hlen
    · intro i _
      exact readFrame_writeFrame_toNat c h0 (hlen ▸ hN) i
    · intro hout
      omega
  · refine ⟨_, .indexOutOfRange, 0, exec_setpx_of_outOfRange c h, rfl, hlen, ?_, fun _ => ⟨rfl, rfl, rfl⟩⟩
    intro h0 hN
    exact absurd ⟨h0, hN⟩ h

/-- Settles O13: MKCOL is a response and no more. -/
theorem mkcolReturnsItsColour : Obligations.MkcolReturnsItsColour :=
  fun s c => exec_mkcol c s

/-- Settles O15: CLRF answers with the frame filled with black. -/
theorem clrfBlackensTheFrame : Obligations.ClrfBlackensTheFrame :=
  fun s => ⟨_, 0, exec_clrf s, respond_fillFrame_eq .., fillFrame_length black s,
    fun _ hi => readFrame_fillFrame black hi⟩

/-- Settles O16: FILLF answers with the frame filled with its colour. -/
theorem fillfFillsTheFrame : Obligations.FillfFillsTheFrame :=
  fun s c => ⟨_, 0, exec_fillf c s, respond_fillFrame_eq .., fillFrame_length c s,
    fun _ hi => readFrame_fillFrame c hi⟩

end Sys2Proof.Machine
end

section
/-! PROOFS. The hue-to-RGB converter (41_hue.md). Every integer is `1536 * q + 256 * bin + x` with `bin < 6` and
`x < 256`, and the two divisions of the converter give `bin` and `x` back: `q`, negative or not, is lost in the floor
modulo. -/

namespace Sys2Proof.Machine

/-- The row of the table of 41_hue.md R102 for a sector, at the ramp variable `x`. -/
def hueRow (bin : Fin 6) (x : Nat) : Colour :=
  match bin with
  | 0 => rgb 255 x 0
  | 1 => rgb (255 - x) 255 0
  | 2 => rgb 0 255 x
  | 3 => rgb 0 (255 - x) 255
  | 4 => rgb x 0 255
  | 5 => rgb 255 0 (255 - x)

theorem hueToRgb_eq_hueRow (h : Int) : hueToRgb h = hueRow (hueSector (hueReduce h)) (hueRamp (hueReduce h)) := rfl

theorem exec_hue2rgb (hue : Int) (s : State) :
    exec (.hue2rgb hue) s = .next (respond .ok (colourValue (hueToRgb hue)) s) := rfl

theorem hueReduce_val (h : Int) : ((hueReduce h).val : Int) = h % 1536 :=
  Int.toNat_of_nonneg (Int.emod_nonneg h (by decide))

theorem hueSector_val (p : Fin 1536) : (hueSector p).val = p.val / 256 := rfl

theorem hueRamp_eq (p : Fin 1536) : hueRamp p = p.val % 256 := rfl

/-! ## The reduction and its two digits on `1536 * q + 256 * bin + x` -/

theorem hueReduce_val_of_digits (q : Int) (bin : Fin 6) {x : Nat} (hx : x < 256) :
    (hueReduce (1536 * q + 256 * bin.val + x)).val = 256 * bin.val + x := by
  have hmod := hueReduce_val (1536 * q + 256 * bin.val + x)
  omega

theorem hueSector_of_digits (q : Int) (bin : Fin 6) {x : Nat} (hx : x < 256) :
    hueSector (hueReduce (1536 * q + 256 * bin.val + x)) = bin := by
  rw [Fin.ext_iff, hueSector_val, hueReduce_val_of_digits q bin hx]
  omega

theorem hueRamp_of_digits (q : Int) (bin : Fin 6) {x : Nat} (hx : x < 256) :
    hueRamp (hueReduce (1536 * q + 256 * bin.val + x)) = x := by
  rw [hueRamp_eq, hueReduce_val_of_digits q bin hx]
  omega

theorem hueToRgb_of_digits (q : Int) (bin : Fin 6) {x : Nat} (hx : x < 256) :
    hueToRgb (1536 * q + 256 * bin.val + x) = hueRow bin x := by
  rw [hueToRgb_eq_hueRow, hueSector_of_digits q bin hx, hueRamp_of_digits q bin hx]

/-- HUE2RGB answers with one row of the table and leaves all but the response and the run mark as it was. -/
theorem exec_hue2rgb_of_digits (s : State) (q : Int) (bin : Fin 6) {x : Nat} (hx : x < 256) :
    exec (.hue2rgb (1536 * q + 256 * bin.val + x)) s = .next { s with
      run := .host
      responses := s.responses ++ [responseWord .ok (colourValue (hueRow bin x))] } := by
  rw [exec_hue2rgb, hueToRgb_of_digits q bin hx]
  rfl

/-- Settles O19: the row of each of the six sectors. -/
theorem hueFollowsTheTable : Obligations.HueFollowsTheTable := by
  intro s q x hx
  have row (bin : Fin 6) := exec_hue2rgb_of_digits s q bin hx
  exact ⟨row 0, row 1, row 2, row 3, row 4, row 5⟩

end Sys2Proof.Machine
end

section
/-! PROOFS. The encoder (42_encoder.md): the state ENCODE answers with, and what stands in each of the three regions of
the buffer it writes. -/

namespace Sys2Proof.Machine

/-- ENCODE without an earlier timeout (42_encoder.md R111). -/
theorem exec_encode_of_no_txfault {s : State} (h : s.txfault = false) :
    exec .encode s =
      .next (respond .ok 0 { s with pulse := encodeList s.cfg s.frame, pvalid := true }) := by
  show andThen (encodeFrame s) _ = _
  rw [encodeFrame_eq_next.2 ⟨h, rfl⟩, andThen_next, returnOk_eq]

theorem ledEntries_getElem? (cfg : Config) (c : Colour) {t : Nat} (ht : t < 24) :
    (ledEntries cfg c)[t]? = some (sym cfg ((grbWord c).getLsbD (23 - t))) := by
  simp [ledEntries, Config.bitsPerLed, ht]

/-! ## The three regions of the buffer -/

/-- The lead reset region. -/
theorem encodeList_getElem?_lead (cfg : Config) (frame : List Colour) {j : Nat} (hj : j < cfg.resetPulses) :
    (encodeList cfg frame)[j]? = some 0 := by
  rw [encodeList, List.append_assoc, List.getElem?_append_left (by simpa [resetEntries] using hj)]
  exact List.getElem?_replicate_of_lt hj

/-- Past the lead reset region stand the entries of the LEDs, then the trail reset region. -/
theorem encodeList_getElem?_resetPulses_add (cfg : Config) (frame : List Colour) (j : Nat) :
    (encodeList cfg frame)[cfg.resetPulses + j]? = (frame.flatMap (ledEntries cfg) ++ resetEntries cfg)[j]? := by
  have hlen : (resetEntries cfg).length = cfg.resetPulses := List.length_replicate
  rw [encodeList, List.append_assoc, List.getElem?_append_right (by omega), hlen, Nat.add_sub_cancel_left]

/-- The data region: bit `b` of LED `i` (30_encoding.md R61, R62). -/
theorem encodeList_getElem?_bit (cfg : Config) {frame : List Colour} {i b : Nat} {c : Colour}
    (hc : frame[i]? = some c) (hb : b < 24) :
    (encodeList cfg frame)[cfg.resetPulses + 24 * i + (23 - b)]? =
      some (sym cfg ((c.g.toNat * 65536 + c.r.toNat * 256 + c.b.toNat).testBit b)) := by
  have ht : 23 - b < 24 := by omega
  have hbit : 23 - (23 - b) = b := by omega
  rw [Nat.add_assoc, encodeList_getElem?_resetPulses_add, dataEntries_getElem cfg frame i _ c hc ht,
    ledEntries_getElem? cfg c ht, hbit, grbWord_getLsbD]

/-- The trail reset region. -/
theorem encodeList_getElem?_trail (cfg : Config) (frame : List Colour) {j : Nat}
    (hlo : cfg.resetPulses + 24 * frame.length ≤ j) (hhi : j < 2 * cfg.resetPulses + 24 * frame.length) :
    (encodeList cfg frame)[j]? = some 0 := by
  obtain ⟨k, rfl⟩ := Nat.exists_eq_add_of_le hlo
  have hk : k < cfg.resetPulses := by omega
  have hdata := dataEntries_length cfg frame
  rw [Nat.add_assoc, encodeList_getElem?_resetPulses_add, List.getElem?_append_right (by omega), hdata,
    Nat.add_sub_cancel_left]
  exact List.getElem?_replicate_of_lt hk

/-! ## The statement -/

/-- Settles O22: the buffer ENCODE answers with is the encoding of the Frame, read region by region. -/
theorem encodeWritesEveryEntry : Obligations.EncodeWritesEveryEntry := by
  intro s hlen hfault
  refine ⟨_, 0, exec_encode_of_no_txfault hfault, rfl, ?_, ?_, ?_, ?_⟩
  · exact hlen ▸ encodeList_length s.cfg s.frame
  · exact fun _ hj => encodeList_getElem?_lead s.cfg s.frame hj
  · exact fun _ _ _ hc hb => encodeList_getElem?_bit s.cfg hc hb
  · rw [← hlen]
    exact fun _ hlo hhi => encodeList_getElem?_trail s.cfg s.frame hlo hhi

end Sys2Proof.Machine
end

section
/-! PROOFS. The notifications (60_exceptions.md): a step is the turn of the agent that is next, and the button's turn is
the one atomic set. -/

namespace Sys2Proof.Machine

theorem step_of_nextTurn {s : State} {t : Turn} (h : nextTurn s = t) : step s = takeTurn t (advance s) :=
  congrArg (takeTurn · (advance s)) h

/-- The cancellation handler on any state, whatever is in progress in it (60_exceptions.md R167). -/
theorem takeTurn_button (s : State) : takeTurn .button s = .next { s with cancel := true } := rfl

/-- Settles O11: the step is the button's turn, and that turn looks at nothing in the state. -/
theorem buttonSetsCancelAndNothingElse : Obligations.ButtonSetsCancelAndNothingElse := by
  intro s hturn
  rw [step_of_nextTurn hturn, takeTurn_button]

end Sys2Proof.Machine
end

section
/-! PROOFS. Reset and hazards (70_reset_and_hazards.md): what a step can do to the parameters, the Pulse Buffer and an
idle engine, then the statements. -/

namespace Sys2Proof.Machine

/-- What a turn of another agent than the mainline never does: it writes neither the parameters nor the Pulse Buffer, and
starts no transfer (43_synchronizer.md R127 to R129, 60_exceptions.md R167). -/
structure OtherEffect (s t : State) : Prop where
  cfg : t.cfg = s.cfg
  pulse : t.pulse = s.pulse
  idle : s.xfer = .idle → t.xfer = .idle

theorem engineStep_effect (s : State) : OtherEffect s (engineStep s) := by
  rcases engineStep_cases s with ⟨k, d, hbusy, -, -, heq⟩ | ⟨-, heq⟩ | heq <;> rw [heq]
  · exact ⟨rfl, rfl, fun hidle => by simp [hbusy] at hidle⟩
  · exact ⟨rfl, rfl, fun _ => rfl⟩
  · exact ⟨rfl, rfl, id⟩

theorem engineHang_effect (s : State) : OtherEffect s (engineHang s) := by
  rcases engineHang_cases s with ⟨k, hbusy, heq⟩ | heq <;> rw [heq]
  · exact ⟨rfl, rfl, fun hidle => by simp [hbusy] at hidle⟩
  · exact ⟨rfl, rfl, id⟩

/-- Every step is a turn of the mainline or one of another agent. -/
theorem step_effect {s t : State} (h : step s = .next t) :
    MainEffect (advance s) t ∨ OtherEffect (advance s) t := by
  rcases step_cases h with ⟨-, hmain⟩ | ⟨-, rfl⟩ | ⟨-, rfl⟩ | ⟨-, rfl⟩
  · exact .inl (mainlineStep_effect hmain)
  · exact .inr (engineStep_effect _)
  · exact .inr (engineHang_effect _)
  · exact .inr ⟨rfl, rfl, id⟩

theorem step_cfg {s t : State} (h : step s = .next t) : t.cfg = s.cfg := by
  rcases step_effect h with hmain | hother
  · exact hmain.cfg
  · exact hother.cfg

/-- Where the mainline can come to an ENCODE, awaiting a command or at a pattern's encode point, no TRANSMIT is in
progress (10_state.md R27). -/
theorem sync_idle_of_mayEncode {s : State} (hinv : s.Inv)
    (hrun : s.run = .host ∨ (∃ c, s.run = .cycle c .encode) ∨ ∃ hue, s.run = .rainbow hue .encode) :
    s.sync = .idle := by
  have hplace := hinv.place
  rcases hrun with hr | ⟨c, hr⟩ | ⟨hue, hr⟩ <;> simpa [hr, placeOk] using hplace

/-! ## The statements -/

/-- Settles O43, by induction on the run: no step of any agent writes the parameters. -/
theorem parametersNeverChange : Obligations.ParametersNeverChange := by
  intro s t hreach
  induction hreach with
  | refl => rfl
  | tail _ hstep ih => exact (step_cfg hstep).trans ih

/-- Settles O49: only an ENCODE writes the buffer, it needs `txfault = 0` and stands where no TRANSMIT is in progress,
and (I1) of 43_synchronizer.md R138 has the engine idle there. -/
theorem pulseBufferIsNotWrittenWhileLent : Obligations.PulseBufferIsNotWrittenWhileLent := by
  intro s t hinv hlent hstep
  rcases step_effect hstep with hmain | hother
  · rcases hmain.pulse with ⟨hkeep, -⟩ | ⟨hfault, -, -, -, hrun⟩
    · exact hkeep
    · have hidle : s.xfer = .idle := hinv.quiet (sync_idle_of_mayEncode hinv hrun) hfault
      exact absurd hidle hlent
  · exact hother.pulse

/-- Settles O50: of all steps only T2 takes the engine out of idle, and (I3) of 43_synchronizer.md R138 has `done`
clear when it comes. -/
theorem transferStartsWithDoneClear : Obligations.TransferStartsWithDoneClear := by
  intro s t hinv hstep hidle hstarted
  rcases step_effect hstep with hmain | hother
  · rcases hmain.xfer with hkeep | ⟨harmed, -, hbusy, hwait, hdone⟩
    · exact absurd (hkeep.trans hidle) hstarted
    · obtain ⟨-, -, hclear, -⟩ := hinv.armed harmed
      exact ⟨hclear, hdone.trans hclear, harmed, hwait, hbusy⟩
  · exact absurd (hother.idle hidle) hstarted

end Sys2Proof.Machine
end

section
/-! PROOFS. The command encoding (30_encoding.md Part B): what each row of the table reserves and reads, when a word
decodes to a command, and the mask and match columns field by field. -/

namespace Sys2Proof

/-! ## The rows -/

/-- The rows whose colour field is reserved (30_encoding.md R73). -/
def Opcode.reservesColour : Opcode → Bool
  | .fillf | .setpx | .mkcol => false
  | _ => true

/-- The rows whose immediate is reserved (30_encoding.md R73). -/
def Opcode.reservesImm : Opcode → Bool
  | .setpx | .hue2rgb | .delay => false
  | _ => true

/-- Every field the row reserves is zero in the word. -/
def reservedZero (o : Opcode) (C : Word) : Prop :=
  (o.reservesColour = true → colourField C = black) ∧ (o.reservesImm = true → immField C = 0)

/-- The command of a row with the operands the word carries (30_encoding.md R72). -/
def commandOf (o : Opcode) (C : Word) : Instr :=
  match o with
  | .newf => .newf
  | .clrf => .clrf
  | .fillf => .fillf (colourField C)
  | .setpx => .setpx (colourField C) (indexOfImm (immField C))
  | .mkcol => .mkcol (colourField C)
  | .hue2rgb => .hue2rgb (hueOfImm (immField C))
  | .encode => .encode
  | .transmit => .transmit
  | .tstcancel => .tstcancel
  | .clrcancel => .clrcancel
  | .delay => .delay (millisecondsOfImm (immField C))
  | .patCycle => .patCycle
  | .patRainbow => .patRainbow

@[simp] theorem commandOf_opcode (o : Opcode) (C : Word) : (commandOf o C).opcode = o := by cases o <;> rfl

/-! ## When a word decodes -/

theorem colourReserved_eq_ok_iff {C : Word} {k : Except Illegal Instr} {i : Instr} :
    colourReserved C k = .ok i ↔ colourField C = black ∧ k = .ok i :=
  ⟨colourReserved_ok, fun ⟨hc, hk⟩ => (if_pos hc).trans hk⟩

theorem immReserved_eq_ok_iff {C : Word} {k : Except Illegal Instr} {i : Instr} :
    immReserved C k = .ok i ↔ immField C = 0 ∧ k = .ok i :=
  ⟨immReserved_ok, fun ⟨hi, hk⟩ => (if_pos hi).trans hk⟩

/-- The arm of the decoder that an assigned opcode selects. -/
theorem decode_eq_ok_iff_of_opField {C : Word} {o : Opcode} (h : opField C = o.code) {i : Instr} :
    decode C = .ok i ↔ reservedZero o C ∧ commandOf o C = i := by
  unfold decode
  rw [h, ofCode_code]
  cases o <;>
    simp [reservedZero, commandOf, Opcode.reservesColour, Opcode.reservesImm, bare, colourReserved_eq_ok_iff,
      immReserved_eq_ok_iff, and_assoc]

/-- A word is a command exactly when its opcode is assigned and the fields its row reserves are zero (30_encoding.md
R75). -/
theorem decode_eq_ok_iff {C : Word} {i : Instr} :
    decode C = .ok i ↔ opField C = i.opcode.code ∧ reservedZero i.opcode C ∧ commandOf i.opcode C = i := by
  constructor
  · intro h
    cases ho : Opcode.ofCode (opField C) with
    | none => simp [decode, ho] at h
    | some o =>
      obtain ⟨hres, rfl⟩ := (decode_eq_ok_iff_of_opField (ofCode_some ho)).1 h
      simpa using ⟨ofCode_some ho, hres⟩
  · rintro ⟨hop, hcmd⟩
    exact (decode_eq_ok_iff_of_opField hop).2 hcmd

/-! ## The fields of a command's word -/

@[simp] theorem opField_encode (i : Instr) : opField (encode i) = i.opcode.code := opField_packWord ..

@[simp] theorem colourField_encode (i : Instr) : colourField (encode i) = i.colourOperand := colourField_packWord ..

@[simp] theorem immField_encode (i : Instr) : immField (encode i) = i.immOperand := immField_packWord ..

theorem reservedZero_encode (i : Instr) : reservedZero i.opcode (encode i) := by
  rw [reservedZero, colourField_encode, immField_encode]
  cases i <;> simp [Instr.opcode, Opcode.reservesColour, Opcode.reservesImm, Instr.colourOperand, Instr.immOperand]

/-! ## Operands through the immediate and back (30_encoding.md R72) -/

theorem indexOfImm_immOfInt {index : Int} (h : indexFits index = true) : indexOfImm (immOfInt index) = index := by
  have hfits : 0 ≤ index ∧ index < 2 ^ 32 := of_decide_eq_true h
  rw [indexOfImm, immOfInt, BitVec.toNat_ofInt]
  omega

theorem hueOfImm_immOfInt {hue : Int} (h : hueFits hue = true) : hueOfImm (immOfInt hue) = hue := by
  have hfits : -2 ^ 31 ≤ hue ∧ hue < 2 ^ 31 := of_decide_eq_true h
  rw [hueOfImm, immOfInt]
  exact BitVec.toInt_ofInt_eq_self (by decide) hfits.1 hfits.2

theorem millisecondsOfImm_immOfNat {ms : Nat} (h : millisecondsFit ms = true) :
    millisecondsOfImm (immOfNat ms) = ms := by
  have hfits : ms < 2 ^ 32 := of_decide_eq_true h
  rw [millisecondsOfImm, immOfNat, BitVec.toNat_ofNat, Nat.mod_eq_of_lt hfits]

theorem immOfInt_indexOfImm (imm : Imm) : immOfInt (indexOfImm imm) = imm := by
  rw [immOfInt, indexOfImm, BitVec.ofInt_natCast, BitVec.ofNat_toNat, BitVec.setWidth_eq]

theorem immOfInt_hueOfImm (imm : Imm) : immOfInt (hueOfImm imm) = imm := BitVec.ofInt_toInt

theorem immOfNat_millisecondsOfImm (imm : Imm) : immOfNat (millisecondsOfImm imm) = imm := BitVec.ofNat_toNat ..

theorem commandOf_encode {i : Instr} (h : i.wf = true) : commandOf i.opcode (encode i) = i := by
  cases i with
  | setpx c index => simp [Instr.opcode, commandOf, Instr.colourOperand, Instr.immOperand, indexOfImm_immOfInt h]
  | hue2rgb hue => simp [Instr.opcode, commandOf, Instr.immOperand, hueOfImm_immOfInt h]
  | delay ms => simp [Instr.opcode, commandOf, Instr.immOperand, millisecondsOfImm_immOfNat h]
  | fillf c => simp [Instr.opcode, commandOf, Instr.colourOperand]
  | mkcol c => simp [Instr.opcode, commandOf, Instr.colourOperand]
  | _ => rfl

/-! ## The command a word carries -/

theorem commandOf_wf (o : Opcode) (C : Word) : (commandOf o C).wf = true := by
  cases o with
  | setpx =>
    have hlt := (immField C).isLt
    simp only [commandOf, Instr.wf, indexFits, indexOfImm, decide_eq_true_eq]
    omega
  | hue2rgb =>
    have hlo := (immField C).le_toInt
    have hhi := (immField C).toInt_lt
    simp only [commandOf, Instr.wf, hueFits, hueOfImm, decide_eq_true_eq]
    omega
  | delay => exact decide_eq_true (immField C).isLt
  | _ => rfl

theorem commandOf_colourOperand {o : Opcode} {C : Word} (h : reservedZero o C) :
    (commandOf o C).colourOperand = colourField C := by
  cases o with
  | fillf | setpx | mkcol => rfl
  | _ => exact (h.1 rfl).symm

theorem commandOf_immOperand {o : Opcode} {C : Word} (h : reservedZero o C) :
    (commandOf o C).immOperand = immField C := by
  cases o with
  | setpx => exact immOfInt_indexOfImm _
  | hue2rgb => exact immOfInt_hueOfImm _
  | delay => exact immOfNat_millisecondsOfImm _
  | _ => exact (h.2 rfl).symm

theorem encode_commandOf {o : Opcode} {C : Word} (hop : opField C = o.code) (h : reservedZero o C) :
    encode (commandOf o C) = C := by
  rw [encode, commandOf_opcode, commandOf_colourOperand h, commandOf_immOperand h, ← hop, packWord_fields]

/-! ## Mask and match, field by field -/

/-- The mask keeps the opcode and the reserved fields, and the match has zero in the latter (30_encoding.md R73). -/
theorem maskMatch_eq_packWord (o : Opcode) : o.maskMatch =
    (packWord 255 (if o.reservesColour then ⟨255, 255, 255⟩ else black) (if o.reservesImm then 4294967295 else 0),
      packWord o.code black 0) := by
  cases o <;> decide

theorem and_colourMask_eq_black_iff (c : Colour) (b : Bool) :
    (⟨c.r &&& (if b then (⟨255, 255, 255⟩ : Colour) else black).r,
      c.g &&& (if b then (⟨255, 255, 255⟩ : Colour) else black).g,
      c.b &&& (if b then (⟨255, 255, 255⟩ : Colour) else black).b⟩ : Colour) = black ↔ (b = true → c = black) := by
  obtain ⟨r, g, b'⟩ := c
  have hones (u : Channel) : u &&& 255#8 = u := BitVec.and_allOnes
  cases b <;> simp [black, hones]

theorem and_immMask_eq_zero_iff (imm : Imm) (b : Bool) :
    imm &&& (if b then 4294967295 else 0) = 0 ↔ (b = true → imm = 0) := by
  have hones : imm &&& 4294967295#32 = imm := BitVec.and_allOnes
  cases b <;> simp [hones]

theorem and_mask_eq_match_iff {C : Word} {o : Opcode} :
    C &&& o.maskMatch.1 = o.maskMatch.2 ↔ opField C = o.code ∧ reservedZero o C := by
  have hop : opField C &&& 255 = opField C := BitVec.and_allOnes
  conv_lhs => rw [maskMatch_eq_packWord, ← packWord_fields C, packWord_and, packWord_inj]
  rw [hop, and_colourMask_eq_black_iff, and_immMask_eq_zero_iff, reservedZero]

/-! ## The statements -/

/-- Settles O1: the word's opcode selects the command's row, the fields that row reserves are zero, and each operand
comes back through its field. -/
theorem decodeOfEncodeIsTheCommand : Obligations.DecodeOfEncodeIsTheCommand :=
  fun i hwf => decode_eq_ok_iff.2 ⟨opField_encode i, reservedZero_encode i, commandOf_encode hwf⟩

/-- Settles O2: an accepted word is the word of the command read from its own fields. -/
theorem encodeOfDecodeIsTheWord : Obligations.EncodeOfDecodeIsTheWord := by
  intro C i hdec
  obtain ⟨hop, hres, hcmd⟩ := decode_eq_ok_iff.1 hdec
  rw [← hcmd]
  exact ⟨commandOf_wf i.opcode C, encode_commandOf hop hres⟩

/-- Settles O3: mask and match ask for the row's opcode and zeros in its reserved fields, and so does the decoder. -/
theorem rowsOfTheTableSelectTheirCommands : Obligations.RowsOfTheTableSelectTheirCommands := by
  intro C o
  rw [and_mask_eq_match_iff]
  constructor
  · rintro ⟨hop, hres⟩
    exact ⟨commandOf o C, (decode_eq_ok_iff_of_opField hop).2 ⟨hres, rfl⟩, commandOf_opcode o C⟩
  · rintro ⟨i, hdec, rfl⟩
    obtain ⟨hop, hres, -⟩ := decode_eq_ok_iff.1 hdec
    exact ⟨hop, hres⟩

/-- Settles O4: the decoder evaluates each of the eleven words. -/
theorem writtenWordsDecodeAsTheSpecSays : Obligations.WrittenWordsDecodeAsTheSpecSays :=
  ⟨rfl, rfl, rfl, rfl, rfl, rfl, rfl, rfl, rfl, rfl, rfl⟩

end Sys2Proof
end

section
/-! PROOFS. The wire encoding (30_encoding.md Part A): the inverse of R68 on what ENCODE writes, and the line levels of
what was emitted. -/

namespace Sys2Proof.Machine

/-! ## The inverse on the encoder's output -/

/-- Everything ENCODE can answer with (42_encoder.md R110, R111). -/
theorem exec_encode_eq_next {s t : State} :
    exec .encode s = .next t ↔ s.txfault = false ∧
      t = respond .ok 0 { s with pulse := encodeList s.cfg s.frame, pvalid := true } := by
  show andThen (encodeFrame s) _ = _ ↔ _
  simp only [andThen_eq_next, encodeFrame_eq_next, Host.Outcome.next.injEq]
  constructor
  · rintro ⟨_, ⟨hfault, rfl⟩, rfl⟩
    exact ⟨hfault, rfl⟩
  · rintro ⟨hfault, rfl⟩
    exact ⟨_, ⟨hfault, rfl⟩, rfl⟩

/-- The bits of one LED in the order of its entries: bit 23 of the transmission word first (30_encoding.md R62). -/
def ledBits (c : Colour) : List Bool := (List.range 24).map (fun t => (grbWord c).toNat.testBit (24 - 1 - t))

theorem ledEntries_eq_map_sym (cfg : Config) (c : Colour) : ledEntries cfg c = (ledBits c).map (sym cfg) := by
  rw [ledEntries, ledBits, List.map_map]
  rfl

theorem bitsValue_ledBits (c : Colour) : bitsValue (ledBits c) = (grbWord c).toNat := by
  rw [ledBits, bitsValue_range, Nat.mod_eq_of_lt (grbWord c).isLt]

theorem ledOfEntries_ledEntries {cfg : Config} (h : cfg.dutyLow ≠ cfg.dutyHigh) (c : Colour) :
    ledOfEntries cfg (ledEntries cfg c) = some c := by
  have hlen : (ledEntries cfg c).length = Config.bitsPerLed := ledEntries_length cfg c
  rw [ledOfEntries, if_pos hlen, ledEntries_eq_map_sym, entryBits_map cfg h, Option.map_some, bitsValue_ledBits,
    BitVec.ofNat_toNat, BitVec.setWidth_eq, colourOfGrb_grbWord]

/-- The data region gives the Frame back, LED by LED, whatever follows it. -/
theorem ledsOfEntries_flatMap {cfg : Config} (h : cfg.dutyLow ≠ cfg.dutyHigh) (frame : List Colour) (rest : List Nat) :
    ledsOfEntries cfg frame.length (frame.flatMap (ledEntries cfg) ++ rest) = some frame := by
  induction frame with
  | nil => rfl
  | cons c cs ih =>
    have hlen : (ledEntries cfg c).length = Config.bitsPerLed := ledEntries_length cfg c
    rw [List.length_cons, List.flatMap_cons, List.append_assoc, ledsOfEntries, List.take_left' hlen,
      List.drop_left' hlen, ledOfEntries_ledEntries h, ih]

theorem decodeTransfer_encodeList {cfg : Config} (h : cfg.dutyLow ≠ cfg.dutyHigh) {frame : List Colour}
    (hlen : frame.length = cfg.leds) : decodeTransfer cfg (encodeList cfg frame) = some frame := by
  have hlead : (resetEntries cfg).length = cfg.resetPulses := List.length_replicate
  rw [decodeTransfer, encodeList, List.append_assoc, List.drop_left' hlead, ← hlen, ledsOfEntries_flatMap h]

/-- Settles O23: ENCODE writes the encoding of the Frame, and the two data symbols are different, so each LED's entries
give its Colour back. -/
theorem encodedBufferDecodesToTheFrame : Obligations.EncodedBufferDecodesToTheFrame := by
  intro s t hcfg hlen hexec
  obtain ⟨-, rfl⟩ := exec_encode_eq_next.1 hexec
  obtain ⟨-, -, -, hlt, -⟩ := hcfg
  exact decodeTransfer_encodeList hlt.ne hlen

/-! ## The data line -/

/-- A symbol is high for at most one period (00_scope.md R9). -/
theorem isSymbol_le_period {cfg : Config} (hcfg : cfg.wf) {d : Nat} (h : cfg.isSymbol d) : d ≤ cfg.period := by
  obtain ⟨-, -, -, hlow, hhigh, -⟩ := hcfg
  rcases h with rfl | rfl | rfl
  · exact Nat.zero_le _
  · omega
  · exact hhigh

theorem wave_length {cfg : Config} {d : Nat} (h : d ≤ cfg.period) : (wave cfg d).length = cfg.period := by
  rw [wave, List.length_append, List.length_replicate, List.length_replicate]
  omega

theorem wave_getElem? {cfg : Config} {d k : Nat} (hk : k < cfg.period) :
    (wave cfg d)[k]? = some (decide (k < d)) := by
  by_cases hlt : k < d
  · simp [wave, List.getElem?_append, hlt]
  · simp only [wave, List.getElem?_append, List.length_replicate, hlt, if_false, List.getElem?_replicate, decide_false]
    rw [if_pos (by omega)]

theorem flatMap_wave_length {cfg : Config} {wire : List Nat} (h : ∀ d ∈ wire, d ≤ cfg.period) :
    (wire.flatMap (wave cfg)).length = cfg.period * wire.length := by
  induction wire with
  | nil => rfl
  | cons d ds ih =>
    have hd := h d List.mem_cons_self
    rw [List.flatMap_cons, List.length_append, wave_length hd, ih (fun e he => h e (List.mem_cons_of_mem d he)),
      List.length_cons, Nat.mul_succ, Nat.add_comm]

/-- Settles O59: no symbol is above the period, so the low ticks fill it up. -/
theorem waveformOfOneEntry : Obligations.WaveformOfOneEntry :=
  fun _ _ hcfg hsym => ⟨wave_length (isSymbol_le_period hcfg hsym), fun _ hk => wave_getElem? hk⟩

/-- Settles O60, by induction on the wire: only symbols were ever emitted. -/
theorem transfersLastOnePeriodAnEntry : Obligations.TransfersLastOnePeriodAnEntry :=
  fun _ hinv => flatMap_wave_length fun d hd => isSymbol_le_period hinv.config (hinv.wireSymbols d hd)

end Sys2Proof.Machine
end

section
/-! PROOFS. The response word (30_encoding.md R74), NEWF, and what follows from the table of the hue ramp
(41_hue.md R102). -/

namespace Sys2Proof.Machine

/-! ## Responses -/

theorem responseWord_indexOutOfRange : responseWord .indexOutOfRange 0 = 0x01000000#32 := by decide

theorem responseWord_illegalCommand : responseWord .illegalCommand 0 = 0x04000000#32 := by decide

theorem respond_ok_zero_responses (s : State) : (respond .ok 0 s).responses = s.responses ++ [0#32] := by
  rw [respond_responses, responseWord_ok_zero]

/-- Settles O18: the word is the status above the value, and each of the named commands answers with `respond`. -/
theorem responsesHaveTheDecidedLayout : Obligations.ResponsesHaveTheDecidedLayout := by
  refine ⟨responseWord_toNat, colourValue_toNat, ⟨rfl, rfl, rfl, rfl, rfl⟩, fun s c index => ⟨?_, ?_, ?_, ?_⟩⟩
  · intro i hi
    rcases List.mem_pair.1 hi with rfl | rfl
    · exact ⟨_, exec_clrf s, respond_ok_zero_responses _⟩
    · exact ⟨_, exec_fillf c s, respond_ok_zero_responses _⟩
  · intro hfault
    exact ⟨_, exec_encode_of_no_txfault hfault, respond_ok_zero_responses _⟩
  · intro h0 hN
    exact ⟨_, exec_setpx_of_inRange c ⟨h0, hN⟩, respond_ok_zero_responses _⟩
  · intro hout
    refine ⟨_, exec_setpx_of_outOfRange c (by omega), ?_⟩
    rw [respond_responses, responseWord_indexOutOfRange]

theorem exec_newf (s : State) : exec .newf s = .next (respond .ok 0 (fillFrame black s)) := rfl

/-- Settles O14: NEWF answers with the frame filled with black. -/
theorem newfBlackensTheFrame : Obligations.NewfBlackensTheFrame :=
  fun s => ⟨_, exec_newf s, respond_fillFrame_eq .., fillFrame_length black s, fun _ hi => readFrame_fillFrame black hi⟩

/-! ## Periodicity of the hue -/

theorem hueReduce_add_mul (h k : Int) : hueReduce (h + 1536 * k) = hueReduce h := by
  simp [hueReduce]

/-- Settles O20: the reduction forgets every multiple of 1536. -/
theorem hueIsPeriodic : Obligations.HueIsPeriodic := by
  intro s h k
  rw [exec_hue2rgb, exec_hue2rgb, hueToRgb_eq_hueRow, hueToRgb_eq_hueRow, hueReduce_add_mul]

/-! ## The ramp -/

theorem exists_hue_digits (h : Int) : ∃ (q : Int) (bin : Fin 6) (x : Nat), x < 256 ∧ h = 1536 * q + 256 * bin.val + x :=
  ⟨h / 1536, ⟨(h % 1536 / 256).toNat, by omega⟩, (h % 256).toNat, by omega, by simp only; omega⟩

theorem channel_toNat {n : Nat} (h : n < 256) : (BitVec.ofNat 8 n).toNat = n :=
  (BitVec.toNat_ofNat n 8).trans (Nat.mod_eq_of_lt h)

/-- Every row has a channel 255 and a channel 0. -/
theorem hueRow_has_extremes (bin : Fin 6) (x : Nat) :
    ((hueRow bin x).r = 255 ∨ (hueRow bin x).g = 255 ∨ (hueRow bin x).b = 255) ∧
    ((hueRow bin x).r = 0 ∨ (hueRow bin x).g = 0 ∨ (hueRow bin x).b = 0) := by
  fin_cases bin <;> simp [hueRow, rgb]

/-- Two channel values one apart. -/
def nearChannel (u v : Channel) : Prop := v.toNat = u.toNat + 1 ∨ u.toNat = v.toNat + 1

theorem nearChannel_succ {x : Nat} (h : x < 255) : nearChannel (BitVec.ofNat 8 x) (BitVec.ofNat 8 (x + 1)) :=
  .inl (by rw [channel_toNat (by omega), channel_toNat (by omega)])

theorem nearChannel_sub {x : Nat} (h : x < 255) :
    nearChannel (BitVec.ofNat 8 (255 - x)) (BitVec.ofNat 8 (255 - (x + 1))) :=
  .inr (by rw [channel_toNat (by omega), channel_toNat (by omega)]; omega)

/-- Exactly one channel differs, by one. -/
def oneChannelStep (c d : Colour) : Prop :=
  (nearChannel c.r d.r ∧ c.g = d.g ∧ c.b = d.b) ∨ (c.r = d.r ∧ nearChannel c.g d.g ∧ c.b = d.b) ∨
    (c.r = d.r ∧ c.g = d.g ∧ nearChannel c.b d.b)

/-- Inside a row the one ramping channel moves. -/
theorem hueRow_succ (bin : Fin 6) {x : Nat} (h : x < 255) : oneChannelStep (hueRow bin x) (hueRow bin (x + 1)) :=
  match bin with
  | 0 => .inr (.inl ⟨rfl, nearChannel_succ h, rfl⟩)
  | 1 => .inl ⟨nearChannel_sub h, rfl, rfl⟩
  | 2 => .inr (.inr ⟨rfl, rfl, nearChannel_succ h⟩)
  | 3 => .inr (.inl ⟨rfl, nearChannel_sub h, rfl⟩)
  | 4 => .inl ⟨nearChannel_succ h, rfl, rfl⟩
  | 5 => .inr (.inr ⟨rfl, rfl, nearChannel_sub h⟩)

/-- A row ends with the colour the next one starts with, the last row with that of the first. -/
theorem hueRow_last (bin : Fin 6) : hueRow bin 255 = hueRow (bin + 1) 0 := by fin_cases bin <;> rfl

/-- The hue after the last of a row is the first of the next row. -/
theorem hueToRgb_next_row (q : Int) (bin : Fin 6) : hueToRgb (1536 * q + 256 * bin.val + 256) = hueRow (bin + 1) 0 := by
  have digits (q' : Int) (h : 1536 * q + 256 * bin.val + 256 = 1536 * q' + 256 * (bin + 1).val + (0 : Nat)) :
      hueToRgb (1536 * q + 256 * bin.val + 256) = hueRow (bin + 1) 0 := by
    rw [h, hueToRgb_of_digits q' (bin + 1) (by decide)]
  have hval : (bin + 1).val = (bin.val + 1) % 6 := Fin.val_add bin 1
  by_cases hlast : bin.val = 5
  · exact digits (q + 1) (by omega)
  · exact digits q (by omega)

theorem hueToRgb_succ (h : Int) : hueToRgb h = hueToRgb (h + 1) ∨ oneChannelStep (hueToRgb h) (hueToRgb (h + 1)) := by
  obtain ⟨q, bin, x, hx, rfl⟩ := exists_hue_digits h
  rw [hueToRgb_of_digits q bin hx]
  by_cases hlast : x = 255
  · subst hlast
    rw [add_assoc, hueRow_last, ← hueToRgb_next_row q bin]
    exact .inl rfl
  · have hnext : hueToRgb (1536 * q + 256 * bin.val + x + 1) = hueRow bin (x + 1) := by
      rw [← hueToRgb_of_digits q bin (by omega), Nat.cast_succ, add_assoc _ (x : Int)]
    rw [hnext]
    exact .inr (hueRow_succ bin (by omega))

/-- Settles O21: in the digits of the hue, a step goes along one row or from the end of a row to the start of the
next. -/
theorem hueRampMovesOneChannelByOne : Obligations.HueRampMovesOneChannelByOne := by
  intro h
  obtain ⟨hfull, hzero⟩ := hueRow_has_extremes (hueSector (hueReduce h)) (hueRamp (hueReduce h))
  exact ⟨hfull, hzero, hueToRgb_succ h⟩

end Sys2Proof.Machine
end

section
/-! PROOFS. One turn of each agent (10_state.md R21, R27, R33; 43_synchronizer.md section 2): what it answers in each
case, then the statements. -/

namespace Sys2Proof.Machine

/-! ## The mainline's turn -/

theorem mainlineStep_of_pending_nil {s : State} (hrun : s.run = .host) (hp : s.pending = []) :
    mainlineStep s = .next s := by
  simp only [mainlineStep, hrun, acceptCommand, hp]

theorem mainlineStep_of_pending_cons {s : State} {C : Word} {rest : List Word} (hrun : s.run = .host)
    (hp : s.pending = C :: rest) : mainlineStep s = issue C { s with pending := rest } := by
  simp only [mainlineStep, hrun, acceptCommand, hp]

theorem issue_of_decode_ok {C : Word} {i : Instr} (h : decode C = .ok i) (s : State) : issue C s = exec i s := by
  simp only [issue, h]

theorem issue_of_decode_error {C : Word} {e : Illegal} (h : decode C = .error e) (s : State) :
    issue C s = .next (respond .illegalCommand 0 s) := by
  simp only [issue, h, illegalCommand_eq]

/-- The host's next word decodes to a command, which runs. -/
theorem mainlineStep_of_decode_ok {s : State} {C : Word} {rest : List Word} {i : Instr} (hrun : s.run = .host)
    (hp : s.pending = C :: rest) (hdec : decode C = .ok i) : mainlineStep s = exec i { s with pending := rest } := by
  rw [mainlineStep_of_pending_cons hrun hp, issue_of_decode_ok hdec]

theorem mainlineStep_of_transmit {s : State} (h : s.run = .transmit) : mainlineStep s = exec .transmit s := by
  simp only [mainlineStep, h]

theorem mainlineStep_of_cycle {s : State} {c : CycleColour} {p : PatPoint} (h : s.run = .cycle c p) :
    mainlineStep s = exec .patCycle s := by
  simp only [mainlineStep, h]

theorem mainlineStep_of_rainbow {s : State} {hue : Fin 1536} {p : PatPoint} (h : s.run = .rainbow hue p) :
    mainlineStep s = exec .patRainbow s := by
  simp only [mainlineStep, h]

/-- A response given where no command is in progress changes the responses alone. -/
theorem respond_of_host {s : State} (h : s.run = .host) (st : Status) (v : BitVec 24) :
    respond st v s = { s with responses := s.responses ++ [responseWord st v] } := by
  rw [respond, ← h]

/-- The host's next word is illegal, and is answered. -/
theorem mainlineStep_of_decode_error {s : State} {C : Word} {rest : List Word} {e : Illegal} (hrun : s.run = .host)
    (hp : s.pending = C :: rest) (hdec : decode C = .error e) :
    mainlineStep s = .next { s with pending := rest, responses := s.responses ++ [0x04000000#32] } := by
  rw [mainlineStep_of_pending_cons hrun hp, issue_of_decode_error hdec, ← responseWord_illegalCommand]
  exact congrArg Host.Outcome.next (respond_of_host (s := { s with pending := rest }) hrun _ _)

/-- No row of the table selects a word that the decoder rejects, and it rejects each that none selects. -/
theorem decode_error_of_no_row {C : Word} (h : ∀ o : Opcode, C &&& o.maskMatch.1 ≠ o.maskMatch.2) :
    ∃ e, decode C = .error e := by
  cases hdec : decode C with
  | error e => exact ⟨e, rfl⟩
  | ok i => exact absurd ((rowsOfTheTableSelectTheirCommands C i.opcode).2 ⟨i, hdec, rfl⟩) (h i.opcode)

/-- Settles O5: the mainline accepts the word and runs its command. -/
theorem stepRunsTheDecodedCommand : Obligations.StepRunsTheDecodedCommand := by
  intro s C rest i hturn hrun hp hdec
  rw [step_of_nextTurn hturn]
  exact mainlineStep_of_decode_ok (s := advance s) hrun hp hdec

/-- Settles O6: `run` names the command that goes on. -/
theorem stepContinuesTheCommandInProgress : Obligations.StepContinuesTheCommandInProgress := by
  intro s hturn
  rw [step_of_nextTurn hturn]
  exact ⟨mainlineStep_of_transmit (s := advance s), fun _ _ => mainlineStep_of_cycle (s := advance s),
    fun _ _ => mainlineStep_of_rainbow (s := advance s), mainlineStep_of_pending_nil (s := advance s)⟩

/-- Settles O7: the decoder rejects the word, and the answer to that is a response alone. -/
theorem illegalWordIsAnsweredAndChangesNothing : Obligations.IllegalWordIsAnsweredAndChangesNothing := by
  intro s C rest hturn hrun hp hrows
  obtain ⟨e, hdec⟩ := decode_error_of_no_row hrows
  rw [step_of_nextTurn hturn]
  exact mainlineStep_of_decode_error (s := advance s) hrun hp hdec

/-! ## The engine's turn -/

theorem engineStep_emit {s : State} {k d : Nat} (hx : s.xfer = .busy k) (hk : k < s.cfg.bufferLen)
    (hd : s.pulse[k]? = some d) : engineStep s = { s with wire := s.wire ++ [d], xfer := .busy (k + 1) } := by
  simp only [engineStep, hx, hk, if_true, emitEntry, readPulse, hd]

theorem engineStep_complete {s : State} (hx : s.xfer = .busy s.cfg.bufferLen) :
    engineStep s = { s with xfer := .idle, done := true } := by
  simp only [engineStep, hx, lt_irrefl, if_false, if_true]
  rfl

theorem engineStep_of_not_busy {s : State} (hx : ∀ k, s.xfer ≠ .busy k) : engineStep s = s := by
  unfold engineStep
  split
  case h_2 k hk => exact absurd hk (hx k)
  all_goals rfl

theorem engineHang_busy {s : State} {k : Nat} (hx : s.xfer = .busy k) : engineHang s = { s with xfer := .hung k } := by
  simp only [engineHang, hx]

theorem engineHang_of_not_busy {s : State} (hx : ∀ k, s.xfer ≠ .busy k) : engineHang s = s := by
  unfold engineHang
  split
  case h_2 k hk => exact absurd hk (hx k)
  all_goals rfl

/-- Settles O8: X1 on the state with the turn used up. -/
theorem engineEmitsTheNextEntry : Obligations.EngineEmitsTheNextEntry := by
  intro s k d hturn hx hk hd
  rw [step_of_nextTurn hturn, takeTurn, engineStep_emit (s := advance s) hx hk hd]
  rfl

/-- Settles O9: X2 on the state with the turn used up. -/
theorem engineCompletesAfterTheLastEntry : Obligations.EngineCompletesAfterTheLastEntry := by
  intro s hturn hx
  rw [step_of_nextTurn hturn, takeTurn, engineStep_complete (s := advance s) hx]

/-- Settles O10: X3 takes a busy engine to hung, and neither step is enabled without a busy one. -/
theorem engineHangsForGood : Obligations.EngineHangsForGood := by
  intro s
  constructor
  · intro k hturn hx
    rw [step_of_nextTurn hturn, takeTurn, engineHang_busy (s := advance s) hx]
  · rintro (hturn | hturn) hx
    · rw [step_of_nextTurn hturn, takeTurn, engineStep_of_not_busy (s := advance s) hx]
    · rw [step_of_nextTurn hturn, takeTurn, engineHang_of_not_busy (s := advance s) hx]

/-! ## The engine and the press -/

/-- `s` with the flag `cancel` and the bookkeeping of turns set, which no engine step reads or writes. -/
def withTurns (s : State) (cancel : Bool) (turns : List Turn) (tick : Nat) : State :=
  { s with cancel := cancel, turns := turns, tick := tick }

theorem emitEntry_withTurns (k : Nat) (s : State) (b : Bool) (ts : List Turn) (n : Nat) :
    emitEntry k (withTurns s b ts n) = withTurns (emitEntry k s) b ts n := by
  cases hd : s.pulse[k]? <;> simp only [emitEntry, readPulse, withTurns, hd]

theorem engineStep_withTurns (s : State) (b : Bool) (ts : List Turn) (n : Nat) :
    engineStep (withTurns s b ts n) = withTurns (engineStep s) b ts n := by
  cases hx : s.xfer with
  | idle => simp only [engineStep, withTurns, hx]
  | hung k => simp only [engineStep, withTurns, hx]
  | busy k =>
    have hx' : (withTurns s b ts n).xfer = .busy k := hx
    simp only [engineStep, hx, hx', emitEntry_withTurns, apply_ite (withTurns · b ts n)]
    rfl

theorem engineHang_withTurns (s : State) (b : Bool) (ts : List Turn) (n : Nat) :
    engineHang (withTurns s b ts n) = withTurns (engineHang s) b ts n := by
  cases hx : s.xfer <;> simp only [engineHang, withTurns, hx]

theorem runSteps_two {s t u : State} (h₁ : step s = .next t) (h₂ : step t = .next u) : runSteps 2 s = .next u := by
  rw [runSteps_succ 1 h₁, runSteps_succ 0 h₂]
  rfl

/-- A turn that neither reads nor writes `cancel` and the bookkeeping of turns commutes with a press. -/
theorem button_commutes {e : Turn} {f : State → State} (hturn : ∀ s, takeTurn e s = .next (f s))
    (hf : ∀ s b ts n, f (withTurns s b ts n) = withTurns (f s) b ts n) (s : State) (ts : List Turn) :
    runSteps 2 { s with turns := .button :: e :: ts } = runSteps 2 { s with turns := e :: .button :: ts } := by
  have press_first : runSteps 2 { s with turns := .button :: e :: ts } =
      .next (withTurns (f s) true ts (s.tick + 1 + 1)) := by
    rw [← hf]
    exact runSteps_two (t := withTurns s true (e :: ts) (s.tick + 1)) rfl (hturn _)
  have engine_first : step { s with turns := e :: .button :: ts } =
      .next (withTurns (f s) s.cancel (.button :: ts) (s.tick + 1)) := by
    rw [← hf]
    exact hturn _
  rw [press_first, runSteps_two engine_first rfl]
  rfl

/-- Settles O12: both the engine's step and its hang leave `cancel` out. -/
theorem buttonAndEngineCommute : Obligations.ButtonAndEngineCommute := by
  rintro s e ts (rfl | rfl)
  · exact button_commutes (fun _ => rfl) engineStep_withTurns s ts
  · exact button_commutes (fun _ => rfl) engineHang_withTurns s ts

/-! ## What the other agents write -/

/-- `t` differs from `s` in what the engine and the interrupt context may write, and a flag set in `s` is set in `t`
(10_state.md R33, 60_exceptions.md R172). -/
structure OtherWrites (s t : State) : Prop where
  shape : t = { s with done := t.done, cancel := t.cancel, xfer := t.xfer, wire := t.wire }
  done : s.done = true → t.done = true
  cancel : s.cancel = true → t.cancel = true

theorem engineStep_writes (s : State) : OtherWrites s (engineStep s) := by
  rcases engineStep_cases s with ⟨k, d, -, -, -, heq⟩ | ⟨-, heq⟩ | heq <;> rw [heq]
  · exact ⟨rfl, id, id⟩
  · exact ⟨rfl, fun _ => rfl, id⟩
  · exact ⟨rfl, id, id⟩

theorem engineHang_writes (s : State) : OtherWrites s (engineHang s) := by
  rcases engineHang_cases s with ⟨k, -, heq⟩ | heq <;> rw [heq] <;> exact ⟨rfl, id, id⟩

theorem takeTurn_other {e : Turn} (he : e ≠ .mainline) (s : State) :
    ∃ t, takeTurn e s = .next t ∧ OtherWrites s t :=
  match e with
  | .mainline => absurd rfl he
  | .engine => ⟨_, rfl, engineStep_writes s⟩
  | .engineHang => ⟨_, rfl, engineHang_writes s⟩
  | .button => ⟨_, takeTurn_button s, rfl, id, fun _ => rfl⟩

/-- Every step is a turn of the mainline or a turn within `OtherWrites`. -/
theorem step_mainline_or_other {s t : State} (h : step s = .next t) :
    (nextTurn s = .mainline ∧ mainlineStep (advance s) = .next t) ∨
    (nextTurn s ≠ .mainline ∧ OtherWrites (advance s) t) := by
  by_cases hturn : nextTurn s = .mainline
  · rw [step_of_nextTurn hturn] at h
    exact .inl ⟨hturn, h⟩
  · obtain ⟨t', hstep, hwrites⟩ := takeTurn_other hturn (advance s)
    obtain rfl : t' = t := by simpa [step, hstep] using h
    exact .inr ⟨hturn, hwrites⟩

/-- Settles O48: each of the three turns answers, and writes no more than `OtherWrites` allows. -/
theorem otherAgentsWriteOnlyTheirOwnState : Obligations.OtherAgentsWriteOnlyTheirOwnState := by
  intro s hturn
  obtain ⟨t, hstep, hshape, hdone, hcancel⟩ := takeTurn_other hturn (advance s)
  exact ⟨t, hstep, hshape, hdone, hcancel⟩

end Sys2Proof.Machine
end

section
/-! PROOFS. TRANSMIT (43_synchronizer.md section 1): one equation for each step T1, T2, T3, for each place where it has
no meaning, and for the turn of a mainline inside a TRANSMIT, be it the host's or a pattern's. -/

namespace Sys2Proof.Machine

/-! ## The steps (43_synchronizer.md R121 to R124) -/

theorem transmitStep_of_idle {s : State} (hs : s.sync = .idle) (hp : s.pvalid = true) (hf : s.txfault = false) :
    transmitStep s = .next ⟨{ s with done := false, sync := .armed }, none⟩ := by
  rw [transmitStep, hs, if_neg (by simp [hf]), if_pos hp]
  rfl

theorem transmitStep_of_txfault {s : State} (hs : s.sync = .idle) (hf : s.txfault = true) :
    transmitStep s = .fault .transmitAfterTimeout := by
  rw [transmitStep, hs, if_pos hf]

theorem transmitStep_of_not_pvalid {s : State} (hs : s.sync = .idle) (hf : s.txfault = false) (hp : s.pvalid = false) :
    transmitStep s = .fault .transmitBeforeEncode := by
  rw [transmitStep, hs, if_neg (by simp [hf]), if_neg (by simp [hp])]

theorem transmitStep_of_armed {s : State} (hs : s.sync = .armed) (hx : s.xfer = .idle) :
    transmitStep s = .next ⟨{ s with xfer := .busy 0, sync := .wait (initialPolls s.cfg) }, none⟩ := by
  rw [transmitStep, hs, launchTransmit, startTransfer_eq_next.2 ⟨hx, rfl⟩]
  rfl

theorem transmitStep_of_armed_not_idle {s : State} (hs : s.sync = .armed) (hx : s.xfer ≠ .idle) :
    transmitStep s = .fault .startTransferNotIdle := by
  have hstart : startTransfer s = .fault .startTransferNotIdle := by
    unfold startTransfer
    split
    · exact absurd ‹_› hx
    · rfl
    · rfl
  rw [transmitStep, hs, launchTransmit, hstart]
  rfl

theorem transmitStep_of_wait {s : State} {p : Option Nat} (hs : s.sync = .wait p) :
    transmitStep s = .next (pollTransmit p s) := by
  simp only [transmitStep, hs]

theorem transmitStep_of_done {s : State} {p : Option Nat} (hs : s.sync = .wait p) (hd : s.done = true) :
    transmitStep s = .next ⟨{ s with done := false, sync := .idle }, some .ok⟩ := by
  rw [transmitStep_of_wait hs, pollTransmit, testDone, if_pos hd]
  rfl

theorem transmitStep_of_lastPoll {s : State} {p : Option Nat} (hs : s.sync = .wait p) (hd : s.done = false)
    (hl : lastPoll s.cfg p = true) :
    transmitStep s = .next ⟨{ s with txfault := true, sync := .idle }, some .transmissionTimeout⟩ := by
  rw [transmitStep_of_wait hs, pollTransmit, testDone, if_neg (by simp [hd]), if_pos hl]

theorem transmitStep_of_countedPoll {s : State} {p : Option Nat} (hs : s.sync = .wait p) (hd : s.done = false)
    (hl : lastPoll s.cfg p = false) :
    transmitStep s = .next ⟨{ s with sync := .wait (countPoll p) }, none⟩ := by
  rw [transmitStep_of_wait hs, pollTransmit, testDone, if_neg (by simp [hd]), if_neg (by simp [hl])]

theorem lastPoll_of_le {cfg : Config} {T n : Nat} (hT : cfg.timeoutPolls = some T) (h : T ≤ n + 1) :
    lastPoll cfg (some n) = true := lastPoll_eq_true.2 ⟨T, n, hT, rfl, h⟩

theorem lastPoll_of_lt {cfg : Config} {T n : Nat} (hT : cfg.timeoutPolls = some T) (h : n + 1 < T) :
    lastPoll cfg (some n) = false := by
  simp only [lastPoll, hT, decide_eq_false_iff_not]
  omega

theorem lastPoll_of_unbounded {cfg : Config} (hT : cfg.timeoutPolls = none) (p : Option Nat) :
    lastPoll cfg p = false := by
  simp only [lastPoll, hT]

/-! ## TRANSMIT of the host -/

theorem exec_transmit (s : State) :
    exec .transmit s = andThen (transmitStep s) (fun r => .next (afterTransmit r)) := rfl

theorem afterTransmit_none (t : State) : afterTransmit ⟨t, none⟩ = { t with run := .transmit } := rfl

theorem afterTransmit_ok (t : State) :
    afterTransmit ⟨t, some .ok⟩ = { t with run := .host, responses := t.responses ++ [0#32] } := by
  rw [← responseWord_ok_zero]
  rfl

theorem afterTransmit_timeout (t : State) : afterTransmit ⟨t, some .transmissionTimeout⟩ =
    { t with run := .host, responses := t.responses ++ [0x02000000#32] } := by
  rw [← responseWord_timeout]
  rfl

/-- Settles O24. -/
theorem transmitNeedsAnEncodedBuffer : Obligations.TransmitNeedsAnEncodedBuffer := by
  intro s hs hf hp
  rw [exec_transmit, transmitStep_of_not_pvalid hs hf hp, andThen_fault]

/-- Settles O26: step T1 with a result still to come. -/
theorem transmitFirstClearsDone : Obligations.TransmitFirstClearsDone := by
  intro s hs hp hf
  rw [exec_transmit, transmitStep_of_idle hs hp hf, andThen_next, afterTransmit_none]

/-- Settles O27: step T2 with a result still to come. -/
theorem transmitThenStartsTheTransfer : Obligations.TransmitThenStartsTheTransfer := by
  intro s hs hx
  rw [exec_transmit, transmitStep_of_armed hs hx, andThen_next, afterTransmit_none]
  rfl

/-- Settles O28. -/
theorem startOnABusyEngineHasNoMeaning : Obligations.StartOnABusyEngineHasNoMeaning := by
  intro s hs hx
  rw [exec_transmit, transmitStep_of_armed_not_idle hs hx, andThen_fault]

/-- Settles O29: step T3 by what the poll finds and by the bound. -/
theorem transmitPollsTheCompletionSignal : Obligations.TransmitPollsTheCompletionSignal := by
  intro s
  refine ⟨fun p hs hd => ?_, fun n T hs hd hT => ⟨fun hle => ?_, fun hlt => ?_⟩, fun hs hd hT => ?_⟩
  · rw [exec_transmit, transmitStep_of_done hs hd, andThen_next, afterTransmit_ok]
  · rw [exec_transmit, transmitStep_of_lastPoll hs hd (lastPoll_of_le hT hle), andThen_next, afterTransmit_timeout]
  · rw [exec_transmit, transmitStep_of_countedPoll hs hd (lastPoll_of_lt hT hlt), andThen_next, afterTransmit_none,
      countPoll_some]
  · rw [exec_transmit, transmitStep_of_countedPoll hs hd (lastPoll_of_unbounded hT none), andThen_next,
      afterTransmit_none, countPoll_none, ← hs]

/-! ## `cancel` plays no part (43_synchronizer.md R134) -/

/-- A step's result with the flag set to `b`. -/
def TxStep.withCancel (b : Bool) (r : TxStep) : TxStep := ⟨{ r.state with cancel := b }, r.result⟩

theorem transmitStep_withCancel (s : State) (b : Bool) :
    transmitStep { s with cancel := b } = andThen (transmitStep s) (fun r => .next (r.withCancel b)) := by
  cases hs : s.sync with
  | idle =>
    simp only [transmitStep, hs]
    split_ifs <;> rfl
  | armed =>
    cases hx : s.xfer <;> simp only [transmitStep, hs, launchTransmit, startTransfer, hx] <;> rfl
  | wait p =>
    cases hd : s.done <;> cases hl : lastPoll s.cfg p <;>
      simp only [transmitStep, hs, pollTransmit, testDone, hd, hl] <;> rfl

theorem afterTransmit_withCancel (b : Bool) (r : TxStep) :
    afterTransmit (r.withCancel b) = { afterTransmit r with cancel := b } := by
  obtain ⟨t, _ | st⟩ := r
  · rfl
  · cases st <;> rfl

/-- Settles O30: each step of TRANSMIT leaves the flag out. -/
theorem transmitIgnoresCancel : Obligations.TransmitIgnoresCancel := by
  intro s b
  rw [exec_transmit, exec_transmit, transmitStep_withCancel]
  cases transmitStep s with
  | next r => exact congrArg Host.Outcome.next (afterTransmit_withCancel b r)
  | fault f => rfl
  | refused f => rfl

/-! ## The mainline inside a TRANSMIT, the host's or a pattern's (44_pattern_sequencer.md R143, R149) -/

/-- The mainline is at a transmission. -/
def Activity.transmits : Activity → Bool
  | .host => false
  | .transmit => true
  | .cycle _ p => p == .transmit
  | .rainbow _ p => p == .transmit

/-- Where the mainline goes on after an `Ok`: the host's next command, or the pattern's delay. -/
def Activity.afterOk : Activity → Activity
  | .host => .host
  | .transmit => .host
  | .cycle c _ => .cycle c .delay
  | .rainbow hue _ => .rainbow hue .delay

/-- What the host gets for an `Ok`: the transmission inside a pattern returns nothing (log entry 15). -/
def Activity.okResponses : Activity → List Rsp
  | .transmit => [0#32]
  | _ => []

/-- What becomes of a step of a TRANSMIT that is in progress at `run`. -/
def settle (run : Activity) (r : TxStep) : State :=
  match r.result with
  | none => { r.state with run := run }
  | some .ok => { r.state with run := run.afterOk, responses := r.state.responses ++ run.okResponses }
  | some e => raise e r.state

theorem afterTransmit_eq_settle (r : TxStep) : afterTransmit r = settle .transmit r := by
  obtain ⟨t, _ | st⟩ := r
  · rfl
  · cases st <;> rfl

theorem patternTransmitted_eq_settle {it : Iteration} {run : Activity} (htransmit : it.transmitAt = run)
    (hdelay : it.delayAt = run.afterOk) (hresp : run.okResponses = []) (r : TxStep) :
    patternTransmitted it r = settle run r := by
  obtain ⟨t, _ | st⟩ := r
  · rw [patternTransmitted, settle, htransmit]
  · cases st <;> simp [patternTransmitted, settle, hdelay, hresp]

theorem mainlineStep_of_transmits {s : State} (h : s.run.transmits = true) :
    mainlineStep s = andThen (transmitStep s) (fun r => .next (settle s.run r)) := by
  cases hrun : s.run with
  | host => simp [hrun, Activity.transmits] at h
  | transmit =>
    simp only [mainlineStep_of_transmit hrun, exec_transmit, afterTransmit_eq_settle]
  | cycle c p =>
    obtain rfl : p = .transmit := by simpa [hrun, Activity.transmits] using h
    rw [mainlineStep_of_cycle hrun]
    simp only [exec, execPatCycle, hrun, patternStep]
    simp only [patternTransmitted_eq_settle (it := cycleIteration s.cfg c) rfl rfl rfl]
    rfl
  | rainbow hue p =>
    obtain rfl : p = .transmit := by simpa [hrun, Activity.transmits] using h
    rw [mainlineStep_of_rainbow hrun]
    simp only [exec, execPatRainbow, hrun, patternStep]
    simp only [patternTransmitted_eq_settle (it := rainbowIteration s.cfg hue) rfl rfl rfl]
    rfl

/-! The turn of a mainline at a transmission, by the phase of the Synchronizer and what the poll finds. -/

section
variable {s : State} (h : s.run.transmits = true)
include h

theorem mainlineStep_arms (hs : s.sync = .idle) (hp : s.pvalid = true) (hf : s.txfault = false) :
    mainlineStep s = .next { s with done := false, sync := .armed } := by
  rw [mainlineStep_of_transmits h, transmitStep_of_idle hs hp hf]
  rfl

theorem mainlineStep_launches (hs : s.sync = .armed) (hx : s.xfer = .idle) :
    mainlineStep s = .next { s with xfer := .busy 0, sync := .wait (initialPolls s.cfg) } := by
  rw [mainlineStep_of_transmits h, transmitStep_of_armed hs hx]
  rfl

theorem mainlineStep_returnsOk {p : Option Nat} (hs : s.sync = .wait p) (hd : s.done = true) :
    mainlineStep s = .next { s with
      done := false, sync := .idle, run := s.run.afterOk, responses := s.responses ++ s.run.okResponses } := by
  rw [mainlineStep_of_transmits h, transmitStep_of_done hs hd]
  rfl

theorem mainlineStep_givesUp {p : Option Nat} (hs : s.sync = .wait p) (hd : s.done = false)
    (hl : lastPoll s.cfg p = true) :
    mainlineStep s = .next { s with
      txfault := true, sync := .idle, run := .host, responses := s.responses ++ [0x02000000#32] } := by
  rw [mainlineStep_of_transmits h, transmitStep_of_lastPoll hs hd hl, ← responseWord_timeout]
  rfl

theorem mainlineStep_counts {p : Option Nat} (hs : s.sync = .wait p) (hd : s.done = false)
    (hl : lastPoll s.cfg p = false) : mainlineStep s = .next { s with sync := .wait (countPoll p) } := by
  rw [mainlineStep_of_transmits h, transmitStep_of_countedPoll hs hd hl]
  rfl

end

/-- Settles O36: at a pattern's transmission `exec` of the pattern is the mainline's turn. -/
theorem patternTransmitsAsTransmitDoes : Obligations.PatternTransmitsAsTransmitDoes := by
  intro s i here after hplace hrun
  obtain ⟨hexec, htr, hafter, hresp⟩ : exec i s = mainlineStep s ∧ s.run.transmits = true ∧ s.run.afterOk = after ∧
      s.run.okResponses = [] := by
    rcases hplace with ⟨c, rfl, rfl, rfl⟩ | ⟨hue, rfl, rfl, rfl⟩
    · exact ⟨(mainlineStep_of_cycle hrun).symm, by rw [hrun]; rfl, by rw [hrun]; rfl, by rw [hrun]; rfl⟩
    · exact ⟨(mainlineStep_of_rainbow hrun).symm, by rw [hrun]; rfl, by rw [hrun]; rfl, by rw [hrun]; rfl⟩
  rw [hexec]
  refine ⟨mainlineStep_arms htr, mainlineStep_launches htr, fun p hs hd => ?_,
    fun n T hs hd hT => ⟨fun hle => ?_, fun hlt => ?_⟩, fun hs hd hT => ?_⟩
  · rw [mainlineStep_returnsOk htr hs hd, hafter, hresp, List.append_nil]
  · exact mainlineStep_givesUp htr hs hd (lastPoll_of_le hT hle)
  · exact mainlineStep_counts htr hs hd (lastPoll_of_lt hT hlt)
  · rw [mainlineStep_counts htr hs hd (lastPoll_of_unbounded hT none), countPoll_none, ← hs]

end Sys2Proof.Machine
end

section
/-! PROOFS. Cancellation, delay and the patterns (44_pattern_sequencer.md): one equation for each point of a pattern's
loop, for both patterns at once through `Iteration`, then the statements. -/

namespace Sys2Proof.Machine

/-! ## Cancellation and delay -/

theorem exec_tstcancel (s : State) : exec .tstcancel s = .next (respond .ok (bitValue s.cancel) s) := rfl

theorem exec_clrcancel (s : State) : exec .clrcancel s = .next (respond .ok 0 (clearCancel s)) := rfl

theorem exec_delay (ms : Nat) (s : State) : exec (.delay ms) s = .next (respond .ok 0 s) := rfl

theorem responseWord_bitValue (b : Bool) : responseWord .ok (bitValue b) = if b then 1#32 else 0#32 := by
  cases b <;> decide

/-- Settles O31. -/
theorem tstcancelReturnsTheFlag : Obligations.TstcancelReturnsTheFlag := by
  intro s
  rw [exec_tstcancel, respond, responseWord_bitValue]

/-- Settles O32. -/
theorem clrcancelClearsTheFlag : Obligations.ClrcancelClearsTheFlag := by
  intro s
  rw [exec_clrcancel, respond, responseWord_ok_zero]
  rfl

/-- Settles O33. -/
theorem delayChangesNothing : Obligations.DelayChangesNothing := by
  intro s ms
  rw [exec_delay, respond, responseWord_ok_zero]

/-! ## One point of the loop (44_pattern_sequencer.md R143) -/

/-- Where the mainline stands at a point of an iteration. -/
def Iteration.pointAt (it : Iteration) : PatPoint → Activity
  | .fill => it.fillAt
  | .encode => it.encodeAt
  | .transmit => it.transmitAt
  | .delay => it.delayAt
  | .check => it.checkAt

theorem cycleIteration_pointAt (cfg : Config) (c : CycleColour) (p : PatPoint) :
    (cycleIteration cfg c).pointAt p = .cycle c p := by
  cases p <;> rfl

theorem rainbowIteration_pointAt (cfg : Config) (hue : Fin 1536) (p : PatPoint) :
    (rainbowIteration cfg hue).pointAt p = .rainbow hue p := by
  cases p <;> rfl

/-- What the two patterns' iterations have in common, which is all that the general lemmas need. -/
structure Iteration.Laws (it : Iteration) : Prop where
  place : ∀ p sync, placeOk (it.pointAt p) sync = (p == .transmit || sync == .idle)
  nextPlace : ∀ sync, placeOk it.nextAt sync = (sync == .idle)
  notHost : ∀ p, it.pointAt p ≠ .host
  transmits : it.transmitAt.transmits = true
  afterOk : it.transmitAt.afterOk = it.delayAt
  okResponses : it.transmitAt.okResponses = []

theorem cycleIteration_laws (cfg : Config) (c : CycleColour) : (cycleIteration cfg c).Laws where
  place := fun p _ => by rw [cycleIteration_pointAt]; rfl
  nextPlace := fun _ => rfl
  notHost := fun p => by rw [cycleIteration_pointAt]; nofun
  transmits := rfl
  afterOk := rfl
  okResponses := rfl

theorem rainbowIteration_laws (cfg : Config) (hue : Fin 1536) : (rainbowIteration cfg hue).Laws where
  place := fun p _ => by rw [rainbowIteration_pointAt]; rfl
  nextPlace := fun _ => rfl
  notHost := fun p => by rw [rainbowIteration_pointAt]; nofun
  transmits := rfl
  afterOk := rfl
  okResponses := rfl

theorem patternStep_fill (it : Iteration) (s : State) : patternStep it .fill s =
    .next { s with frame := List.replicate s.cfg.leds it.colour, run := it.encodeAt } := rfl

theorem patternStep_encode (it : Iteration) {s : State} (hf : s.txfault = false) : patternStep it .encode s =
    .next { s with pulse := encodeList s.cfg s.frame, pvalid := true, run := it.transmitAt } := by
  rw [patternStep, encodeFrame_eq_next.2 ⟨hf, rfl⟩]
  rfl

theorem patternStep_delay (it : Iteration) (s : State) :
    patternStep it .delay s = .next { s with run := it.checkAt } := rfl

theorem patternStep_check (it : Iteration) (s : State) : patternStep it .check s =
    .next (if s.cancel then { s with run := .host, responses := s.responses ++ [0#32] }
      else { s with run := it.nextAt }) := by
  rw [patternStep, ← responseWord_ok_zero]
  rfl

theorem startPattern_of_no_txfault (it : Iteration) {s : State} (hf : s.txfault = false) : startPattern it s =
    .next { s with frame := List.replicate s.cfg.leds it.colour, run := it.encodeAt } :=
  startPattern_eq_next.2 ⟨hf, rfl⟩

theorem startPattern_of_txfault (it : Iteration) {s : State} (hf : s.txfault = true) :
    startPattern it s = .fault .patternAfterTimeout := by
  rw [startPattern, if_pos hf]

theorem execPatCycle_of_host {s : State} (h : s.run = .host) :
    exec .patCycle s = startPattern (cycleIteration s.cfg .red) s := by
  simp only [exec, execPatCycle, h]

theorem execPatCycle_of_cycle {s : State} {c : CycleColour} {p : PatPoint} (h : s.run = .cycle c p) :
    exec .patCycle s = patternStep (cycleIteration s.cfg c) p s := by
  simp only [exec, execPatCycle, h]

theorem execPatRainbow_of_host {s : State} (h : s.run = .host) :
    exec .patRainbow s = startPattern (rainbowIteration s.cfg 0) s := by
  simp only [exec, execPatRainbow, h]

theorem execPatRainbow_of_rainbow {s : State} {hue : Fin 1536} {p : PatPoint} (h : s.run = .rainbow hue p) :
    exec .patRainbow s = patternStep (rainbowIteration s.cfg hue) p s := by
  simp only [exec, execPatRainbow, h]

/-- The mainline's turn inside a Cycle is the next point of the colour's iteration. -/
theorem mainlineStep_eq_cycle {s : State} {c : CycleColour} {p : PatPoint} (h : s.run = .cycle c p) :
    mainlineStep s = patternStep (cycleIteration s.cfg c) p s := by
  rw [mainlineStep_of_cycle h, execPatCycle_of_cycle h]

/-- The mainline's turn inside a Rainbow is the next point of the hue's iteration. -/
theorem mainlineStep_eq_rainbow {s : State} {hue : Fin 1536} {p : PatPoint} (h : s.run = .rainbow hue p) :
    mainlineStep s = patternStep (rainbowIteration s.cfg hue) p s := by
  rw [mainlineStep_of_rainbow h, execPatRainbow_of_rainbow h]

/-- Settles O25: ENCODE, TRANSMIT and the start of a pattern each look at `txfault` first. -/
theorem commandsAfterATimeoutHaveNoMeaning : Obligations.CommandsAfterATimeoutHaveNoMeaning := by
  intro s hf
  refine ⟨?_, fun hs => ?_, fun hrun => ⟨?_, ?_⟩⟩
  · simp only [exec, execEncode, encodeFrame, hf, if_true, andThen_fault]
  · rw [exec_transmit, transmitStep_of_txfault hs hf, andThen_fault]
  · rw [execPatCycle_of_host hrun, startPattern_of_txfault _ hf]
  · rw [execPatRainbow_of_host hrun, startPattern_of_txfault _ hf]

/-! ## The loops of the two patterns -/

/-- The rows of the Cycle: each colour, its channels and its successor (44_pattern_sequencer.md R145). -/
theorem cycle_row {c d : CycleColour} {k : Colour}
    (h : (c, k, d) ∈ [(CycleColour.red, (⟨255, 0, 0⟩ : Colour), CycleColour.green), (.green, ⟨0, 255, 0⟩, .blue),
      (.blue, ⟨0, 0, 255⟩, .red)]) : k = c.colour ∧ d = c.succ := by
  simp only [List.mem_cons, List.not_mem_nil, or_false, Prod.mk.injEq] at h
  rcases h with ⟨rfl, rfl, rfl⟩ | ⟨rfl, rfl, rfl⟩ | ⟨rfl, rfl, rfl⟩ <;> exact ⟨rfl, rfl⟩

/-- Settles O34: the four points of one colour's iteration outside its transmission. -/
theorem cyclePatternFollowsItsLoop : Obligations.CyclePatternFollowsItsLoop := by
  refine fun s => ⟨fun hrun hf => ?_, fun c d k hrow => ?_⟩
  · rw [execPatCycle_of_host hrun, startPattern_of_no_txfault _ hf]
    rfl
  · obtain ⟨rfl, rfl⟩ := cycle_row hrow
    refine ⟨fun hrun => ?_, fun hrun hf => ?_, fun hrun => ?_, fun hrun => ?_⟩ <;> rw [execPatCycle_of_cycle hrun]
    · exact patternStep_fill _ s
    · exact patternStep_encode _ hf
    · exact patternStep_delay _ s
    · exact patternStep_check _ s

theorem hueToRgb_zero : hueToRgb 0 = ⟨255, 0, 0⟩ := by decide

/-- Settles O35: the same four points for one hue. -/
theorem rainbowPatternFollowsItsLoop : Obligations.RainbowPatternFollowsItsLoop := by
  refine fun s => ⟨fun hrun hf => ?_, fun hue => ⟨fun hrun => ?_, fun hrun hf => ?_, fun hrun => ?_, fun hrun => ?_⟩⟩
  · rw [execPatRainbow_of_host hrun, startPattern_of_no_txfault _ hf, ← hueToRgb_zero]
    rfl
  · rw [execPatRainbow_of_rainbow hrun]
    exact patternStep_fill _ s
  · rw [execPatRainbow_of_rainbow hrun]
    exact patternStep_encode _ hf
  · rw [execPatRainbow_of_rainbow hrun]
    exact patternStep_delay _ s
  · rw [execPatRainbow_of_rainbow hrun, patternStep_check]
    refine ⟨_, rfl, fun hc => if_pos hc, fun hc => ⟨nextHue hue, rfl, if_neg (by simp [hc])⟩⟩

/-! ## A cancelled pattern -/

/-- How a step leaves a pattern that stood at point `p` of the iteration `it`, when `cancel` is set: in the same
iteration and no earlier in it, ended at the checkpoint, or ended by the timeout of its transmission. -/
def StaysOrEnds (it : Iteration) (p : PatPoint) (mayStay : Prop) (s t : State) : Prop :=
  t.cancel = true ∧
  ((∃ p', t.run = it.pointAt p' ∧ p.rank ≤ p'.rank ∧ (p = .check → mayStay)) ∨
    (t.run = .host ∧ p = .check ∧ t.responses = s.responses ++ [0#32]) ∨
    (t.run = .host ∧ p = .transmit ∧ t.txfault = true ∧ t.responses = s.responses ++ [0x02000000#32]))

theorem patternTransmitted_staysOrEnds {it : Iteration} {s : State} {r : TxStep} (hc : s.cancel = true)
    (h : transmitStep s = .next r) (mayStay : Prop) :
    StaysOrEnds it .transmit mayStay s (patternTransmitted it r) := by
  rcases transmitStep_cases h with ⟨-, -, -, rfl⟩ | ⟨-, -, rfl⟩ | ⟨p, -, -, rfl⟩ | ⟨T, n, -, -, -, -, rfl⟩ |
    ⟨p, -, -, -, rfl⟩
  · exact ⟨hc, .inl ⟨.transmit, rfl, le_rfl, nofun⟩⟩
  · exact ⟨hc, .inl ⟨.transmit, rfl, le_rfl, nofun⟩⟩
  · exact ⟨hc, .inl ⟨.delay, rfl, by decide, nofun⟩⟩
  · refine ⟨hc, .inr (.inr ⟨rfl, rfl, rfl, ?_⟩)⟩
    rw [← responseWord_timeout]
    rfl
  · exact ⟨hc, .inl ⟨.transmit, rfl, le_rfl, nofun⟩⟩

theorem patternStep_staysOrEnds {it : Iteration} {p : PatPoint} {s t : State} (hc : s.cancel = true)
    (h : patternStep it p s = .next t) (mayStay : Prop) : StaysOrEnds it p mayStay s t := by
  rcases patternStep_cases h with ⟨rfl, rfl⟩ | ⟨rfl, -, rfl⟩ | ⟨rfl, r, hr, rfl⟩ | ⟨rfl, rfl⟩ | ⟨rfl, -, rfl⟩ |
    ⟨rfl, hnot, -⟩
  · exact ⟨hc, .inl ⟨.encode, rfl, by decide, nofun⟩⟩
  · exact ⟨hc, .inl ⟨.transmit, rfl, by decide, nofun⟩⟩
  · exact patternTransmitted_staysOrEnds hc hr mayStay
  · exact ⟨hc, .inl ⟨.check, rfl, by decide, nofun⟩⟩
  · exact ⟨hc, .inr (.inl ⟨rfl, rfl, respond_ok_zero_responses s⟩)⟩
  · simp [hc] at hnot

/-- The turn of another agent leaves the pattern where it is. -/
theorem otherWrites_staysOrEnds {it : Iteration} {p : PatPoint} {s t : State} {mayStay : Prop} (hc : s.cancel = true)
    (hrun : s.run = it.pointAt p) (h : OtherWrites s t) (hstay : mayStay) : StaysOrEnds it p mayStay s t := by
  have hrun' : t.run = s.run := by rw [h.shape]
  exact ⟨h.cancel hc, .inl ⟨p, hrun'.trans hrun, le_rfl, fun _ => hstay⟩⟩

/-- Every step of every agent, for a pattern whose mainline turn is `patternStep`. -/
theorem step_staysOrEnds {it : Iteration} {p : PatPoint} {s t : State} (hc : s.cancel = true)
    (hrun : s.run = it.pointAt p) (hmain : mainlineStep (advance s) = patternStep it p (advance s))
    (h : step s = .next t) : StaysOrEnds it p (nextTurn s ≠ .mainline) s t := by
  rcases step_mainline_or_other h with ⟨-, hm⟩ | ⟨hturn, hother⟩
  · exact patternStep_staysOrEnds (s := advance s) hc (hmain ▸ hm) _
  · exact otherWrites_staysOrEnds (s := advance s) hc hrun hother hturn

/-- Settles O37: both patterns are cases of `step_staysOrEnds`. -/
theorem cancelledPatternStaysInItsIteration : Obligations.CancelledPatternStaysInItsIteration := by
  intro s t hc hstep
  constructor
  · intro c p hrun
    have hpoint := cycleIteration_pointAt s.cfg c
    have hmain := mainlineStep_eq_cycle (s := advance s) hrun
    simpa only [StaysOrEnds, hpoint] using step_staysOrEnds hc (hrun.trans (hpoint p).symm) hmain hstep
  · intro hue p hrun
    have hpoint := rainbowIteration_pointAt s.cfg hue
    have hmain := mainlineStep_eq_rainbow (s := advance s) hrun
    simpa only [StaysOrEnds, hpoint] using step_staysOrEnds hc (hrun.trans (hpoint p).symm) hmain hstep

end Sys2Proof.Machine
end

section
/-! PROOFS. Reset and the invariants (70_reset_and_hazards.md R191, 43_synchronizer.md R138): the invariant at reset,
then one lemma per update that keeps it, then every step. -/

namespace Sys2Proof.Machine

/-! ## Reset -/

/-- Settles O38: the fields of the state after reset. -/
theorem resetLeavesTheStatedValues : Obligations.ResetLeavesTheStatedValues := by
  constructor
  · rintro cfg cancel pulse s rfl
    exact ⟨fun i hi => List.getElem?_replicate_of_lt hi, List.length_replicate, rfl, rfl, rfl, rfl, rfl, rfl, rfl, rfl⟩
  · exact ⟨Config.chip, Config.freeCancel, _, rfl, rfl, rfl, rfl, rfl⟩

theorem chip_wf : Config.chip.wf := by
  have hleds := Config.freeLeds.isLt
  refine ⟨by simp [Config.chip], by simp only [Config.chip]; omega, by decide, by decide, by decide, by decide,
    by decide, ?_⟩
  cases h : Config.freeTimeout <;> simp [Config.chip, h]

theorem powerOn_inv {cfg : Config} (cancel : Bool) {pulse : List Nat} (hcfg : cfg.wf)
    (hlen : pulse.length = cfg.bufferLen) (hwidth : ∀ d ∈ pulse, d < 2 ^ cfg.dutyBits) :
    (State.powerOn cfg cancel pulse).Inv where
  config := hcfg
  memory := powerOn_memory cfg cancel pulse hlen
  width := hwidth
  symbols := nofun
  wireSymbols := nofun
  place := rfl
  quiet := fun _ _ => rfl
  armed := nofun
  waits := nofun
  bound := rfl
  faulted := nofun
  position := Nat.zero_le _
  lent := fun h => absurd rfl h
  emitted := List.suffix_refl []

theorem reset_inv : State.reset.Inv := by
  refine powerOn_inv _ chip_wf (by simp) fun d hd => ?_
  obtain ⟨j, -, rfl⟩ := List.mem_map.1 hd
  exact Nat.mod_lt _ (by decide)

theorem reset_wholeTransfers : State.reset.WholeTransfers :=
  ⟨nofun, [], nofun, rfl, (Nat.zero_mul _).symm⟩

/-- Settles O39: nothing is in progress, emitted or encoded after reset. -/
theorem resetMeetsTheInvariant : Obligations.ResetMeetsTheInvariant :=
  ⟨reset_inv, fun _ _ _ => rfl, reset_wholeTransfers⟩

/-! ## Updates that keep the invariant -/

theorem Inv_advance {s : State} (h : s.Inv) : (advance s).Inv := { h with }

theorem Inv_withPending {s : State} (h : s.Inv) (rest : List Word) : ({ s with pending := rest } : State).Inv :=
  { h with }

theorem Inv_withCancel {s : State} (h : s.Inv) (b : Bool) : ({ s with cancel := b } : State).Inv := { h with }

/-- The mainline moves to another place, one that fits the Synchronizer's phase. -/
theorem Inv_withRun {s : State} (h : s.Inv) {run : Activity} (hplace : placeOk run s.sync = true)
    (hfault : s.txfault = true → run = .host) (resps : List Rsp) :
    ({ s with run := run, responses := resps } : State).Inv :=
  { h with
    place := hplace
    faulted := fun hf => by
      obtain ⟨hs, -, hp, hd⟩ := h.faulted hf
      exact ⟨hs, hfault hf, hp, hd⟩ }

/-- ENCODE writes symbols, the whole buffer, and only while no transfer is in flight (42_encoder.md R114). -/
theorem Inv_encode {s : State} (h : s.Inv) (hs : s.sync = .idle) (hf : s.txfault = false) :
    ({ s with pulse := encodeList s.cfg s.frame, pvalid := true } : State).Inv :=
  have hidle : s.xfer = .idle := h.quiet hs hf
  { h with
    memory := ⟨h.memory.1, (writePulse_encodeList_keeps_memory h.memory).2⟩
    width := fun d hd => isSymbol_fits h.config (encodeList_isSymbol _ _ d hd)
    symbols := fun _ => encodeList_isSymbol _ _
    armed := fun ha => absurd (hs.symm.trans ha) nofun
    waits := fun hw => by simp [hs, Sync.waiting] at hw
    faulted := fun hf' => absurd (hf.symm.trans hf') nofun
    lent := fun _ => rfl
    emitted := by simp [hidle, Xfer.sent] }

/-- X1 emits a symbol, the next entry of the buffer (43_synchronizer.md R127). -/
theorem Inv_emit {s : State} (h : s.Inv) {k d : Nat} (hx : s.xfer = .busy k) (hk : k < s.cfg.bufferLen)
    (hd : s.pulse[k]? = some d) : ({ s with wire := s.wire ++ [d], xfer := .busy (k + 1) } : State).Inv := by
  have hne : s.xfer ≠ .idle := by simp [hx]
  have hiff {b : Bool} (hb : b = true ↔ s.xfer = .idle) : b = true ↔ Xfer.busy (k + 1) = .idle :=
    hb.trans ⟨fun e => absurd e hne, nofun⟩
  exact { h with
    wireSymbols := fun e he => by
      rcases List.mem_append.1 he with hw | hnew
      · exact h.wireSymbols e hw
      · rw [List.mem_singleton.1 hnew]
        exact h.symbols (h.lent hne) d (List.mem_of_getElem? hd)
    quiet := fun hs hf => absurd (h.quiet hs hf) hne
    armed := fun hs => absurd (h.armed hs).2.2.2 hne
    waits := fun hs => by
      obtain ⟨hp, hf, hb⟩ := h.waits hs
      exact ⟨hp, hf, hiff hb⟩
    faulted := fun hf => by
      obtain ⟨hs, hr, hp, hb⟩ := h.faulted hf
      exact ⟨hs, hr, hp, hiff hb⟩
    position := hk
    lent := fun _ => h.lent hne
    emitted := by
      have hfront := h.emitted
      rw [hx] at hfront
      show s.pulse.take (k + 1) <:+ s.wire ++ [d]
      rw [List.take_add_one, hd]
      exact (List.suffix_append_self_iff).2 hfront }

/-- X2 ends the transfer and sets `done`, in one step (43_synchronizer.md R128). -/
theorem Inv_complete {s : State} (h : s.Inv) {k : Nat} (hx : s.xfer = .busy k) :
    ({ s with xfer := .idle, done := true } : State).Inv := by
  have hne : s.xfer ≠ .idle := by simp [hx]
  exact { h with
    quiet := fun _ _ => rfl
    armed := fun hs => absurd (h.armed hs).2.2.2 hne
    waits := fun hs => by
      obtain ⟨hp, hf, -⟩ := h.waits hs
      exact ⟨hp, hf, by simp⟩
    faulted := fun hf => by
      obtain ⟨hs, hr, hp, -⟩ := h.faulted hf
      exact ⟨hs, hr, hp, by simp⟩
    position := Nat.zero_le _
    lent := fun he => absurd rfl he
    emitted := List.nil_suffix }

/-- X3 leaves the transfer where it is (43_synchronizer.md R129). -/
theorem Inv_hang {s : State} (h : s.Inv) {k : Nat} (hx : s.xfer = .busy k) :
    ({ s with xfer := .hung k } : State).Inv := by
  have hne : s.xfer ≠ .idle := by simp [hx]
  have hsent : (Xfer.hung k).sent = s.xfer.sent := by rw [hx]; rfl
  have hiff {b : Bool} (hb : b = true ↔ s.xfer = .idle) : b = true ↔ Xfer.hung k = .idle :=
    hb.trans ⟨fun e => absurd e hne, nofun⟩
  exact { h with
    quiet := fun hs hf => absurd (h.quiet hs hf) hne
    armed := fun hs => absurd (h.armed hs).2.2.2 hne
    waits := fun hs => by
      obtain ⟨hp, hf, hb⟩ := h.waits hs
      exact ⟨hp, hf, hiff hb⟩
    faulted := fun hf => by
      obtain ⟨hs, hr, hp, hb⟩ := h.faulted hf
      exact ⟨hs, hr, hp, hiff hb⟩
    position := hsent ▸ h.position
    lent := fun _ => h.lent hne
    emitted := hsent ▸ h.emitted }

theorem withinBound_initialPolls {cfg : Config} (h : cfg.wf) :
    (Sync.wait (initialPolls cfg)).withinBound cfg = true := by
  obtain ⟨-, -, -, -, -, -, -, hpolls⟩ := h
  cases hT : cfg.timeoutPolls with
  | none => simp [Sync.withinBound, initialPolls, hT]
  | some T =>
    have hpos : T ≠ 0 := fun h0 => hpolls (by rw [hT, h0])
    simp [Sync.withinBound, initialPolls, hT]
    omega

/-- A count that is kept below the bound. -/
theorem withinBound_countPoll {cfg : Config} {p : Option Nat} (h : (Sync.wait p).withinBound cfg = true)
    (hlast : ∀ T n, cfg.timeoutPolls = some T → p = some n → n + 1 < T) :
    (Sync.wait (countPoll p)).withinBound cfg = true := by
  cases hT : cfg.timeoutPolls <;> cases p <;> simp_all [Sync.withinBound]

/-- Every step of a TRANSMIT keeps the invariant, once the mainline's place fits the phase it leaves. -/
theorem Inv_transmitStep {s : State} (h : s.Inv) {r : TxStep} (hr : transmitStep s = .next r) {run : Activity}
    (hplace : placeOk run r.state.sync = true) (hfault : r.state.txfault = true → run = .host) (resps : List Rsp) :
    ({ r.state with run := run, responses := resps } : State).Inv := by
  rcases transmitStep_cases hr with ⟨hs, hf, hp, rfl⟩ | ⟨hs, -, rfl⟩ | ⟨p, hs, hd, rfl⟩ | ⟨T, n, hs, -, -, -, rfl⟩ |
    ⟨p, hs, -, hlast, rfl⟩
  · exact { h with
      place := hplace
      quiet := nofun
      armed := fun _ => ⟨hp, hf, rfl, h.quiet hs hf⟩
      waits := nofun
      bound := rfl
      faulted := fun hf' => absurd (hf.symm.trans hf') nofun }
  · obtain ⟨hp, hf, hd, -⟩ := h.armed hs
    exact { h with
      place := hplace
      quiet := nofun
      armed := nofun
      waits := fun _ => ⟨hp, hf, by simp [hd]⟩
      bound := withinBound_initialPolls h.config
      faulted := fun hf' => absurd (hf.symm.trans hf') nofun
      position := Nat.zero_le _
      lent := fun _ => hp
      emitted := List.nil_suffix }
  · obtain ⟨-, hf, hover⟩ := h.waits (by rw [hs]; rfl)
    exact { h with
      place := hplace
      quiet := fun _ _ => hover.1 hd
      armed := nofun
      waits := nofun
      bound := rfl
      faulted := fun hf' => absurd (hf.symm.trans hf') nofun }
  · obtain ⟨hp, -, hover⟩ := h.waits (by rw [hs]; rfl)
    exact { h with
      place := hplace
      quiet := nofun
      armed := nofun
      waits := nofun
      bound := rfl
      faulted := fun _ => ⟨rfl, hfault rfl, hp, hover⟩ }
  · obtain ⟨hp, hf, hover⟩ := h.waits (by rw [hs]; rfl)
    exact { h with
      place := hplace
      quiet := nofun
      armed := nofun
      waits := fun _ => ⟨hp, hf, hover⟩
      bound := withinBound_countPoll (hs ▸ h.bound) hlast
      faulted := fun hf' => absurd (hf.symm.trans hf') nofun }

/-! ## The turns keep the invariant -/

theorem sync_idle_of_host {s : State} (h : s.Inv) (hrun : s.run = .host) : s.sync = .idle :=
  sync_idle_of_mayEncode h (.inl hrun)

theorem txfault_of_not_host {s : State} (h : s.Inv) (hrun : s.run ≠ .host) : s.txfault = false := by
  by_contra hf
  exact hrun (h.faulted (by simpa using hf)).2.1

/-- Outside the transmissions no TRANSMIT is in progress. -/
theorem transmits_of_sync_ne_idle {s : State} (h : s.Inv) (hs : s.sync ≠ .idle) : s.run.transmits = true := by
  have hplace := h.place
  cases hrun : s.run <;> simp_all [placeOk, Activity.transmits]

theorem placeOk_of_transmits {run : Activity} {sync : Sync} (h : run.transmits = true) (hs : sync ≠ .idle) :
    placeOk run sync = true := by
  cases run <;> simp_all [placeOk, Activity.transmits]

theorem placeOk_afterOk (run : Activity) : placeOk run.afterOk .idle = true := by cases run <;> rfl

/-- A step of a TRANSMIT ends it with the Synchronizer idle, and sets `txfault` only when it ends it so. -/
theorem transmitStep_outcome {s : State} (h : s.Inv) {r : TxStep} (hr : transmitStep s = .next r) :
    (r.result = none ∧ r.state.sync ≠ .idle ∧ r.state.txfault = false) ∨
    (r.result = some .ok ∧ r.state.sync = .idle ∧ r.state.txfault = false) ∨
    (r.result = some .transmissionTimeout ∧ r.state.sync = .idle) := by
  rcases transmitStep_cases hr with ⟨-, hf, -, rfl⟩ | ⟨hs, -, rfl⟩ | ⟨p, hs, -, rfl⟩ | ⟨T, n, -, -, -, -, rfl⟩ |
    ⟨p, hs, -, -, rfl⟩
  · exact .inl ⟨rfl, nofun, hf⟩
  · exact .inl ⟨rfl, nofun, (h.armed hs).2.1⟩
  · exact .inr (.inl ⟨rfl, rfl, (h.waits (by rw [hs]; rfl)).2.1⟩)
  · exact .inr (.inr ⟨rfl, rfl⟩)
  · exact .inl ⟨rfl, nofun, (h.waits (by rw [hs]; rfl)).2.1⟩

/-- After each step of a TRANSMIT the mainline stands where the Synchronizer's phase allows. -/
theorem Inv_settle {s : State} (h : s.Inv) {run : Activity} (hrun : run.transmits = true) {r : TxStep}
    (hr : transmitStep s = .next r) : (settle run r).Inv := by
  have hkeep := @Inv_transmitStep s h r hr
  rcases transmitStep_outcome h hr with ⟨hres, hs, hf⟩ | ⟨hres, hs, hf⟩ | ⟨hres, hs⟩ <;> rw [settle, hres]
  · exact hkeep (placeOk_of_transmits hrun hs) (fun hf' => absurd (hf.symm.trans hf') nofun) _
  · exact hkeep (hs ▸ placeOk_afterOk run) (fun hf' => absurd (hf.symm.trans hf') nofun) _
  · exact hkeep (run := .host) (by rw [hs]; rfl) (fun _ => rfl) _

theorem Inv_startPattern {s t : State} (h : s.Inv) (hs : s.sync = .idle) {it : Iteration} (hit : it.Laws)
    (hstep : startPattern it s = .next t) : t.Inv := by
  obtain ⟨hf, rfl⟩ := startPattern_eq_next.1 hstep
  have hplace : placeOk it.encodeAt s.sync = true := (hit.place .encode s.sync).trans (by rw [hs]; rfl)
  exact Inv_withRun (Inv_fillFrame h it.colour) hplace (fun hf' => absurd (hf.symm.trans hf') nofun) _

/-- Every command the host issues keeps the invariant. -/
theorem Inv_exec {s t : State} (h : s.Inv) (hrun : s.run = .host) {i : Instr} (hexec : exec i s = .next t) : t.Inv := by
  have hs := sync_idle_of_host h hrun
  cases i with
  | newf => cases hexec; exact Inv_respond (Inv_fillFrame h black) hs _ _
  | clrf => cases hexec; exact Inv_respond (Inv_fillFrame h black) hs _ _
  | fillf c => cases hexec; exact Inv_respond (Inv_fillFrame h c) hs _ _
  | setpx c index =>
    by_cases hin : 0 ≤ index ∧ index < s.cfg.leds
    · rw [exec_setpx_of_inRange c hin] at hexec
      cases hexec; exact Inv_respond (Inv_writeFrame h _ c) hs _ _
    · rw [exec_setpx_of_outOfRange c hin] at hexec
      cases hexec; exact Inv_respond h hs _ _
  | mkcol c => cases hexec; exact Inv_respond h hs _ _
  | hue2rgb hue => cases hexec; exact Inv_respond h hs _ _
  | encode =>
    obtain ⟨hf, rfl⟩ := exec_encode_eq_next.1 hexec
    exact Inv_respond (Inv_encode h hs hf) hs _ _
  | transmit =>
    obtain ⟨r, hr, rfl⟩ := execTransmit_eq_next.1 hexec
    exact afterTransmit_eq_settle r ▸ Inv_settle h rfl hr
  | tstcancel => cases hexec; exact Inv_respond h hs _ _
  | clrcancel => cases hexec; exact Inv_respond (Inv_withCancel h false) hs _ _
  | delay ms => cases hexec; exact Inv_respond h hs _ _
  | patCycle => exact Inv_startPattern h hs (cycleIteration_laws s.cfg .red) (execPatCycle_of_host hrun ▸ hexec)
  | patRainbow => exact Inv_startPattern h hs (rainbowIteration_laws s.cfg 0) (execPatRainbow_of_host hrun ▸ hexec)

/-- Every point of a pattern's loop keeps the invariant. -/
theorem Inv_patternStep {s t : State} (h : s.Inv) {it : Iteration} (hit : it.Laws) {p : PatPoint}
    (hrun : s.run = it.pointAt p) (hstep : patternStep it p s = .next t) : t.Inv := by
  have hf : s.txfault = false := txfault_of_not_host h (hrun ▸ hit.notHost p)
  have hnof {run : Activity} (hf' : s.txfault = true) : run = .host := absurd (hf.symm.trans hf') nofun
  have hidle (hp : p ≠ .transmit) : s.sync = .idle := by
    have hplace := h.place
    rw [hrun, hit.place] at hplace
    simpa [hp] using hplace
  rcases patternStep_cases hstep with ⟨rfl, rfl⟩ | ⟨rfl, -, rfl⟩ | ⟨rfl, r, hr, rfl⟩ | ⟨rfl, rfl⟩ | ⟨rfl, -, rfl⟩ |
    ⟨rfl, -, rfl⟩
  · have hplace := hit.place .encode s.sync
    exact Inv_withRun (Inv_fillFrame h it.colour) (hplace.trans (by rw [hidle nofun]; rfl)) hnof _
  · have hplace := hit.place .transmit s.sync
    exact Inv_withRun (Inv_encode h (hidle nofun) hf) (hplace.trans rfl) hnof _
  · rw [patternTransmitted_eq_settle rfl hit.afterOk.symm hit.okResponses]
    exact Inv_settle h hit.transmits hr
  · have hplace := hit.place .check s.sync
    exact Inv_withRun h (hplace.trans (by rw [hidle nofun]; rfl)) hnof _
  · exact Inv_respond h (hidle nofun) _ _
  · exact Inv_withRun h ((hit.nextPlace s.sync).trans (by rw [hidle nofun]; rfl)) hnof _

theorem Inv_mainlineStep {s t : State} (h : s.Inv) (hstep : mainlineStep s = .next t) : t.Inv := by
  rcases mainlineStep_cases hstep with ⟨-, -, rfl⟩ | ⟨C, rest, e, hrun, -, -, rfl⟩ | ⟨C, rest, i, hrun, -, -, hexec⟩ |
    ⟨-, hexec⟩ | ⟨c, p, hrun, hpat⟩ | ⟨hue, p, hrun, hpat⟩
  · exact h
  · have hs := sync_idle_of_host h hrun
    exact Inv_respond (Inv_withPending h rest) hs _ _
  · exact Inv_exec (Inv_withPending h rest) hrun hexec
  · obtain ⟨r, hr, rfl⟩ := execTransmit_eq_next.1 hexec
    exact afterTransmit_eq_settle r ▸ Inv_settle h rfl hr
  · exact Inv_patternStep h (cycleIteration_laws _ c) (hrun.trans (cycleIteration_pointAt s.cfg c p).symm) hpat
  · exact Inv_patternStep h (rainbowIteration_laws _ hue) (hrun.trans (rainbowIteration_pointAt s.cfg hue p).symm) hpat

theorem Inv_engineStep {s : State} (h : s.Inv) : (engineStep s).Inv := by
  rcases engineStep_cases s with ⟨k, d, hx, hk, hd, heq⟩ | ⟨hx, heq⟩ | heq <;> rw [heq]
  · exact Inv_emit h hx hk hd
  · exact Inv_complete h hx
  · exact h

theorem Inv_engineHang {s : State} (h : s.Inv) : (engineHang s).Inv := by
  rcases engineHang_cases s with ⟨k, hx, heq⟩ | heq <;> rw [heq]
  · exact Inv_hang h hx
  · exact h

theorem step_inv {s t : State} (h : s.Inv) (hstep : step s = .next t) : t.Inv := by
  rcases step_cases hstep with ⟨-, hmain⟩ | ⟨-, rfl⟩ | ⟨-, rfl⟩ | ⟨-, rfl⟩
  · exact Inv_mainlineStep (Inv_advance h) hmain
  · exact Inv_engineStep (Inv_advance h)
  · exact Inv_engineHang (Inv_advance h)
  · exact Inv_withCancel (Inv_advance h) true

/-- Settles O40: the turn of each agent keeps the invariant. -/
theorem stepKeepsTheInvariant : Obligations.StepKeepsTheInvariant := fun _ _ => step_inv

end Sys2Proof.Machine
end

section
/-! PROOFS. What a step can do to each part of the state (10_state.md R24 to R30, R34; 43_synchronizer.md R138): the
marks, the flags, the wire, and the transfers that were emitted. -/

namespace Sys2Proof.Machine

/-! ## Marks that stay -/

theorem step_pvalid {s t : State} (hstep : step s = .next t) (h : s.pvalid = true) : t.pvalid = true := by
  rcases step_mainline_or_other hstep with ⟨-, hmain⟩ | ⟨-, hother⟩
  · exact (mainlineStep_effect hmain).pvalid h
  · rw [hother.shape]
    exact h

theorem step_txfault {s t : State} (hstep : step s = .next t) (h : s.txfault = true) : t.txfault = true := by
  rcases step_mainline_or_other hstep with ⟨-, hmain⟩ | ⟨-, hother⟩
  · exact (mainlineStep_effect hmain).txfault h
  · rw [hother.shape]
    exact h

/-- Settles O44, by induction on the run. -/
theorem hiddenMarksAreNeverCleared : Obligations.HiddenMarksAreNeverCleared := by
  intro s t hreach
  induction hreach with
  | refl => exact ⟨id, id⟩
  | tail _ hstep ih => exact ⟨fun h => step_pvalid hstep (ih.1 h), fun h => step_txfault hstep (ih.2 h)⟩

/-! ## The wire and the flags -/

/-- Settles O45: of all turns only X1 writes the wire. -/
theorem wireGrowsOneEntryAtATime : Obligations.WireGrowsOneEntryAtATime := by
  intro s t hstep
  rcases step_cases hstep with ⟨-, hmain⟩ | ⟨hturn, rfl⟩ | ⟨-, rfl⟩ | ⟨-, rfl⟩
  · exact .inl (mainlineStep_effect hmain).wire
  · rcases engineStep_cases (advance s) with ⟨k, d, hx, -, hd, heq⟩ | ⟨-, heq⟩ | heq <;> rw [heq]
    · exact .inr ⟨k, d, hturn, hx, hd, rfl, rfl⟩
    · exact .inl rfl
    · exact .inl rfl
  · rcases engineHang_cases (advance s) with ⟨k, -, heq⟩ | heq <;> rw [heq] <;> exact .inl rfl
  · exact .inl rfl

theorem step_sets_done {s t : State} (hstep : step s = .next t) (hs : s.done = false) (ht : t.done = true) :
    nextTurn s = .engine ∧ s.xfer = .busy s.cfg.bufferLen ∧ t.xfer = .idle := by
  have hne {b : Bool} (hb : b = s.done) : b ≠ true := by simp [hb, hs]
  rcases step_cases hstep with ⟨-, hmain⟩ | ⟨hturn, rfl⟩ | ⟨-, rfl⟩ | ⟨-, rfl⟩
  · rcases (mainlineStep_effect hmain).done with hkeep | ⟨hclear, -⟩
    · exact absurd ht (hne hkeep)
    · exact absurd (hclear.symm.trans ht) nofun
  · rcases engineStep_cases (advance s) with ⟨k, d, -, -, -, heq⟩ | ⟨hx, heq⟩ | heq <;> rw [heq] at ht ⊢
    · exact absurd ht (hne rfl)
    · exact ⟨hturn, hx, rfl⟩
    · exact absurd ht (hne rfl)
  · rcases engineHang_cases (advance s) with ⟨k, -, heq⟩ | heq <;> rw [heq] at ht <;> exact absurd ht (hne rfl)
  · exact absurd ht (hne rfl)

/-- Settles O46: the engine's X2 is the only set, and the two clears are the mainline's. -/
theorem doneIsSetAndClearedOnlyAsStated : Obligations.DoneIsSetAndClearedOnlyAsStated := by
  refine fun s t hstep => ⟨step_sets_done hstep, fun hs ht => ?_⟩
  rcases step_mainline_or_other hstep with ⟨hturn, hmain⟩ | ⟨-, hother⟩
  · rcases (mainlineStep_effect hmain).done with hkeep | ⟨-, hwhere⟩
    · exact absurd (hkeep.trans hs) (by simp [ht])
    · exact ⟨hturn, hwhere⟩
  · exact absurd (hother.done hs) (by simp [ht])

theorem engineStep_cancel (s : State) : (engineStep s).cancel = s.cancel := by
  rcases engineStep_cases s with ⟨k, d, -, -, -, heq⟩ | ⟨-, heq⟩ | heq <;> rw [heq]

theorem engineHang_cancel (s : State) : (engineHang s).cancel = s.cancel := by
  rcases engineHang_cases s with ⟨k, -, heq⟩ | heq <;> rw [heq]

/-- Settles O47: the press is the only set, and CLRCANCEL the only clear. -/
theorem cancelIsSetAndClearedOnlyAsStated : Obligations.CancelIsSetAndClearedOnlyAsStated := by
  refine fun s t hstep => ⟨fun hs ht => ?_, fun hs ht => ?_⟩
  · have hne {b : Bool} (hb : b = s.cancel) : b ≠ true := by simp [hb, hs]
    rcases step_cases hstep with ⟨-, hmain⟩ | ⟨-, rfl⟩ | ⟨-, rfl⟩ | ⟨hturn, -⟩
    · rcases (mainlineStep_effect hmain).cancel with hkeep | ⟨hclear, -⟩
      · exact absurd ht (hne hkeep)
      · exact absurd (hclear.symm.trans ht) nofun
    · exact absurd ht (hne (engineStep_cancel _))
    · exact absurd ht (hne (engineHang_cancel _))
    · exact hturn
  · rcases step_mainline_or_other hstep with ⟨hturn, hmain⟩ | ⟨-, hother⟩
    · rcases (mainlineStep_effect hmain).cancel with hkeep | ⟨-, hrun, hword⟩
      · exact absurd (hkeep.trans hs) (by simp [ht])
      · exact ⟨hturn, hrun, hword⟩
    · exact absurd (hother.cancel hs) (by simp [ht])

/-! ## During a TRANSMIT -/

theorem settle_shape (run : Activity) (r : TxStep) : settle run r =
    { r.state with run := (settle run r).run, responses := (settle run r).responses } := by
  unfold settle
  split <;> rfl

/-- A step of a TRANSMIT writes `done`, `txfault` and the two phases at most. -/
theorem transmitStep_shape {s : State} {r : TxStep} (hr : transmitStep s = .next r) : r.state =
    { s with done := r.state.done, txfault := r.state.txfault, sync := r.state.sync, xfer := r.state.xfer } := by
  rcases transmitStep_cases hr with ⟨-, -, -, rfl⟩ | ⟨-, -, rfl⟩ | ⟨p, -, -, rfl⟩ | ⟨T, n, -, -, -, -, rfl⟩ |
    ⟨p, -, -, -, rfl⟩ <;> rfl

/-- While a TRANSMIT is in progress the mainline's turn is its next step. -/
theorem mainlineStep_during_transmit {s t : State} (h : s.Inv) (hs : s.sync ≠ .idle)
    (hstep : mainlineStep s = .next t) :
    ∃ r, transmitStep s = .next r ∧ t = settle s.run r := by
  rw [mainlineStep_of_transmits (transmits_of_sync_ne_idle h hs), andThen_eq_next] at hstep
  obtain ⟨r, hr, ht⟩ := hstep
  exact ⟨r, hr, (Host.Outcome.next.inj ht).symm⟩

/-- Settles O51: the mainline's turn is the next step of the TRANSMIT, which writes none of these fields. -/
theorem mainlineDoesNothingElseDuringTransmit : Obligations.MainlineDoesNothingElseDuringTransmit := by
  intro s t hinv hs hturn hstep
  rw [step_of_nextTurn hturn] at hstep
  obtain ⟨r, hr, rfl⟩ := mainlineStep_during_transmit (Inv_advance hinv) hs hstep
  rw [settle_shape, transmitStep_shape hr]
  exact ⟨rfl, rfl, rfl, rfl, rfl⟩

/-! ## No completion is left over -/

/-- The mainline leaves no completion behind: the poll that ends a wait without a timeout is the one that clears
`done`. -/
theorem mainlineStep_noStale {s t : State} (h : s.Inv) (hclean : s.NoStale) (hstep : mainlineStep s = .next t) :
    t.NoStale := by
  intro hsync hfault hidle
  have heffect := mainlineStep_effect hstep
  have hfault' : s.txfault = false := by
    by_contra hf
    exact absurd (hfault.symm.trans (heffect.txfault (by simpa using hf))) nofun
  by_cases hs : s.sync = .idle
  · rcases heffect.done with hkeep | ⟨hclear, -⟩
    · exact hkeep.trans (hclean hs hfault' (h.quiet hs hfault'))
    · exact hclear
  · obtain ⟨r, hr, rfl⟩ := mainlineStep_during_transmit h hs hstep
    rw [settle_shape] at hsync hfault ⊢
    rcases transmitStep_cases hr with ⟨-, -, -, rfl⟩ | ⟨-, -, rfl⟩ | ⟨p, -, -, rfl⟩ | ⟨T, n, -, -, -, -, rfl⟩ |
      ⟨p, -, -, -, rfl⟩
    · rfl
    · exact absurd hsync nofun
    · rfl
    · exact absurd hfault nofun
    · exact absurd hsync nofun

/-- Settles O41: the mainline clears `done` where it ends a wait, and the engine sets it in no idle Synchronizer
without a timeout, since (I1) of 43_synchronizer.md R138 has the engine idle there. -/
theorem stepLeavesNoStaleCompletion : Obligations.StepLeavesNoStaleCompletion := by
  intro s t hinv hclean hstep
  by_cases hset : s.done = false ∧ t.done = true
  · obtain ⟨hturn, hx, -⟩ := step_sets_done hstep hset.1 hset.2
    rcases step_mainline_or_other hstep with ⟨hturn', -⟩ | ⟨-, hother⟩
    · exact absurd (hturn.symm.trans hturn') nofun
    · intro hsync hfault _
      rw [hother.shape] at hsync hfault
      exact absurd (hx.symm.trans (hinv.quiet hsync hfault)) nofun
  · rcases step_mainline_or_other hstep with ⟨-, hmain⟩ | ⟨-, hother⟩
    · exact mainlineStep_noStale (Inv_advance hinv) hclean hmain
    · intro hsync hfault _
      rw [hother.shape] at hsync hfault
      have hs := hclean hsync hfault (hinv.quiet hsync hfault)
      simpa [hs] using hset

/-! ## Whole transfers -/

/-- Nothing emitted, nothing encoded, and the engine as far as before. -/
theorem wholeTransfers_congr {s t : State} (h : s.WholeTransfers) (hcfg : t.cfg = s.cfg) (hpulse : t.pulse = s.pulse)
    (hpvalid : t.pvalid = s.pvalid) (hwire : t.wire = s.wire) (hsent : t.xfer.sent = s.xfer.sent) :
    t.WholeTransfers := by
  unfold State.WholeTransfers at h ⊢
  rwa [hcfg, hpulse, hpvalid, hwire, hsent]

/-- ENCODE, which comes only with no transfer in flight. -/
theorem wholeTransfers_encode {s t : State} (h : s.WholeTransfers) (hlen : s.frame.length = s.cfg.leds)
    (hidle : s.xfer.sent = 0) (hcfg : t.cfg = s.cfg) (hpulse : t.pulse = encodeList s.cfg s.frame)
    (hwire : t.wire = s.wire) (hsent : t.xfer.sent = s.xfer.sent) : t.WholeTransfers := by
  obtain ⟨-, frames, hframes, hfront, hcount⟩ := h
  refine ⟨fun _ => ⟨s.frame, hcfg ▸ hlen, hcfg ▸ hpulse⟩, frames, hcfg ▸ hframes, ?_, ?_⟩
  · rw [hwire, hfront, hcfg, hsent, hidle, List.take_zero, List.take_zero]
  · rw [hwire, hcount, hcfg, hsent]

theorem wholeTransfers_mainline {s t : State} (hinv : s.Inv) (h : s.WholeTransfers) (hstep : mainlineStep s = .next t) :
    t.WholeTransfers := by
  have heffect := mainlineStep_effect hstep
  have hsent : t.xfer.sent = s.xfer.sent := by
    rcases heffect.xfer with hkeep | ⟨-, hidle, hbusy, -⟩
    · rw [hkeep]
    · rw [hidle, hbusy]
      rfl
  rcases heffect.pulse with ⟨hpulse, hpvalid⟩ | ⟨hfault, -, -, hpulse, hrun⟩
  · exact wholeTransfers_congr h heffect.cfg hpulse hpvalid heffect.wire hsent
  · have hidle : s.xfer = .idle := hinv.quiet (sync_idle_of_mayEncode hinv hrun) hfault
    exact wholeTransfers_encode h hinv.memory.1 (by rw [hidle]; rfl) heffect.cfg hpulse heffect.wire hsent

/-- X1: one entry more of the buffer. -/
theorem wholeTransfers_emit {s : State} (h : s.WholeTransfers) {k d : Nat} (hx : s.xfer = .busy k)
    (hd : s.pulse[k]? = some d) :
    ({ s with wire := s.wire ++ [d], xfer := .busy (k + 1) } : State).WholeTransfers := by
  obtain ⟨hbuffer, frames, hframes, hfront, hcount⟩ := h
  rw [hx] at hfront hcount
  refine ⟨hbuffer, frames, hframes, ?_, ?_⟩
  · show s.wire ++ [d] = _ ++ s.pulse.take (k + 1)
    rw [hfront, List.take_add_one, hd, List.append_assoc]
    rfl
  · show (s.wire ++ [d]).length = frames.length * s.cfg.bufferLen + (k + 1)
    rw [List.length_append, hcount]
    rfl

/-- X2: the front of the buffer is all of it, one more encoding of a Frame. -/
theorem wholeTransfers_complete {s : State} (hinv : s.Inv) (h : s.WholeTransfers)
    (hx : s.xfer = .busy s.cfg.bufferLen) : ({ s with xfer := .idle, done := true } : State).WholeTransfers := by
  obtain ⟨hbuffer, frames, hframes, hfront, hcount⟩ := h
  obtain ⟨f, hlen, hpulse⟩ := hbuffer (hinv.lent (by simp [hx]))
  rw [hx] at hfront hcount
  refine ⟨hbuffer, frames ++ [f], ?_, ?_, ?_⟩
  · intro g hg
    rcases List.mem_append.1 hg with hold | hnew
    · exact hframes g hold
    · exact List.mem_singleton.1 hnew ▸ hlen
  · show s.wire = _ ++ s.pulse.take 0
    have hall : s.pulse.take (Xfer.busy s.cfg.bufferLen).sent = s.pulse := List.take_of_length_le hinv.memory.2.le
    rw [hfront, hall, List.flatMap_append, List.flatMap_singleton, List.take_zero, List.append_nil, ← hpulse]
  · show s.wire.length = (frames ++ [f]).length * s.cfg.bufferLen + 0
    rw [hcount, List.length_append, List.length_singleton, Nat.succ_mul]
    rfl

/-- Settles O42: X1 moves the front on, X2 turns it into a whole transfer, and ENCODE comes only between transfers. -/
theorem stepKeepsWholeTransfers : Obligations.StepKeepsWholeTransfers := by
  intro s t hinv h hstep
  have hinv' : (advance s).Inv := Inv_advance hinv
  have h' : (advance s).WholeTransfers := h
  rcases step_cases hstep with ⟨-, hmain⟩ | ⟨-, rfl⟩ | ⟨-, rfl⟩ | ⟨-, rfl⟩
  · exact wholeTransfers_mainline hinv' h' hmain
  · rcases engineStep_cases (advance s) with ⟨k, d, hx, -, hd, heq⟩ | ⟨hx, heq⟩ | heq <;> rw [heq]
    · exact wholeTransfers_emit h' hx hd
    · exact wholeTransfers_complete hinv' h' hx
    · exact h'
  · rcases engineHang_cases (advance s) with ⟨k, hx, heq⟩ | heq <;> rw [heq]
    · exact wholeTransfers_congr h' rfl rfl rfl rfl (by rw [hx]; rfl)
    · exact h'
  · exact h'

end Sys2Proof.Machine
end

section
/-! PROOFS. Whole transmissions in every interleaving (43_synchronizer.md R125, R133). From T1 on, a transmission is a
small machine of its own: `Phase` says how far it is, `Phase.next` what a turn does to it, and `phaseState` what the whole
state is then. Each turn of each agent commutes with this (`takeTurn_phase`), so that both postconditions are read off
the two phases in which a transmission ends. -/

namespace Sys2Proof.Machine

/-! ## The phases of a transmission -/

/-- How far a transmission is, from T1 to its return. -/
inductive Phase where
  /-- T1 is done, T2 comes next -/
  | armed
  /-- `k` entries are out, `polls` is the count of the wait; the engine may have hung -/
  | flying (k : Nat) (hung : Bool) (polls : Option Nat)
  /-- the transfer is over, no poll has found so yet -/
  | ended (polls : Option Nat)
  /-- a poll found `done` -/
  | returned
  /-- the last poll allowed found `done` clear, with `k` entries out -/
  | gaveUp (k : Nat) (hung : Bool)

/-- The transmission is still in progress. -/
def Phase.live : Phase → Bool
  | .returned => false
  | .gaveUp _ _ => false
  | _ => true

/-- The engine with `k` entries out. -/
def xferAt (k : Nat) (hung : Bool) : Xfer := if hung then .hung k else .busy k

/-- What one turn does to a transmission in progress (43_synchronizer.md R123, R124, R127 to R129). -/
def Phase.next (cfg : Config) : Turn → Phase → Phase
  | .mainline, .armed => .flying 0 false (initialPolls cfg)
  | .mainline, .flying k hung p => if lastPoll cfg p then .gaveUp k hung else .flying k hung (countPoll p)
  | .mainline, .ended _ => .returned
  | .engine, .flying k false p =>
    if k < cfg.bufferLen then .flying (k + 1) false p else if k = cfg.bufferLen then .ended p else .flying k false p
  | .engineHang, .flying k false p => .flying k true p
  | _, ph => ph

/-- The state in each phase of the transmission that stood at `a` after its T1, up to `cancel` and the turns. -/
def phaseState (a : State) : Phase → State
  | .armed => a
  | .flying k hung p => { a with xfer := xferAt k hung, sync := .wait p, wire := a.wire ++ a.pulse.take k }
  | .ended p => { a with xfer := .idle, sync := .wait p, done := true, wire := a.wire ++ a.pulse }
  | .returned => { a with
      xfer := .idle, sync := .idle, done := false, wire := a.wire ++ a.pulse
      run := a.run.afterOk, responses := a.responses ++ a.run.okResponses }
  | .gaveUp k hung => { a with
      txfault := true, xfer := xferAt k hung, sync := .idle, wire := a.wire ++ a.pulse.take k
      run := .host, responses := a.responses ++ [0x02000000#32] }

/-- The state right after T1 (43_synchronizer.md R122, and (I3) of R138). -/
structure JustArmed (a : State) : Prop where
  transmits : a.run.transmits = true
  sync : a.sync = .armed
  xfer : a.xfer = .idle
  done : a.done = false
  length : a.pulse.length = a.cfg.bufferLen

theorem live_of_sync_ne_idle {a : State} {ph : Phase} (h : (phaseState a ph).sync ≠ .idle) : ph.live = true := by
  cases ph with
  | returned => exact absurd rfl h
  | gaveUp k hung => exact absurd rfl h
  | _ => rfl

/-! ## Every turn commutes with the phases -/

section
variable {a : State} (ha : JustArmed a) (c : Bool) (ts : List Turn) (n : Nat)
include ha

theorem mainlineStep_phase {ph : Phase} (hlive : ph.live = true) : mainlineStep (withTurns (phaseState a ph) c ts n) =
    .next (withTurns (phaseState a (ph.next a.cfg .mainline)) c ts n) := by
  cases ph with
  | armed =>
    refine (mainlineStep_launches (s := withTurns a c ts n) ha.transmits ha.sync ha.xfer).trans ?_
    simp [Phase.next, phaseState, withTurns, xferAt]
  | flying k hung p =>
    cases hl : lastPoll a.cfg p with
    | true =>
      rw [mainlineStep_givesUp (s := withTurns (phaseState a (.flying k hung p)) c ts n) ha.transmits rfl ha.done hl]
      simp only [Phase.next, hl, if_true]
      rfl
    | false =>
      rw [mainlineStep_counts (s := withTurns (phaseState a (.flying k hung p)) c ts n) ha.transmits rfl ha.done hl]
      simp only [Phase.next, hl]
      rfl
  | ended p => exact mainlineStep_returnsOk (s := withTurns (phaseState a (.ended p)) c ts n) ha.transmits rfl rfl
  | returned => exact absurd hlive nofun
  | gaveUp k hung => exact absurd hlive nofun

theorem engineStep_phase {ph : Phase} (hlive : ph.live = true) : engineStep (withTurns (phaseState a ph) c ts n) =
    withTurns (phaseState a (ph.next a.cfg .engine)) c ts n := by
  rw [engineStep_withTurns]
  congr 1
  cases ph with
  | armed => exact engineStep_of_not_busy (s := a) (by simp [ha.xfer])
  | flying k hung p =>
    cases hung with
    | true => exact engineStep_of_not_busy (by simp [phaseState, xferAt])
    | false =>
      rcases lt_trichotomy k a.cfg.bufferLen with hlt | rfl | hgt
      · have hd : a.pulse[k]? = some (a.pulse[k]'(ha.length ▸ hlt)) := List.getElem?_eq_getElem _
        rw [engineStep_emit (s := phaseState a (.flying k false p)) rfl hlt hd]
        simp only [Phase.next, hlt, if_true, phaseState, List.take_add_one, hd, List.append_assoc]
        rfl
      · rw [engineStep_complete (s := phaseState a (.flying a.cfg.bufferLen false p)) rfl]
        simp only [Phase.next, lt_irrefl, if_false, if_true, phaseState, List.take_of_length_le ha.length.le]
      · have hlt : ¬ k < a.cfg.bufferLen := by omega
        have hne : k ≠ a.cfg.bufferLen := by omega
        show (if k < a.cfg.bufferLen then _ else if k = a.cfg.bufferLen then _ else _) = _
        rw [if_neg hlt, if_neg hne, Phase.next, if_neg hlt, if_neg hne]
  | ended p => exact engineStep_of_not_busy (by simp [phaseState])
  | returned => exact absurd hlive nofun
  | gaveUp k hung => exact absurd hlive nofun

theorem engineHang_phase {ph : Phase} (hlive : ph.live = true) : engineHang (withTurns (phaseState a ph) c ts n) =
    withTurns (phaseState a (ph.next a.cfg .engineHang)) c ts n := by
  rw [engineHang_withTurns]
  congr 1
  cases ph with
  | armed => exact engineHang_of_not_busy (s := a) (by simp [ha.xfer])
  | flying k hung p => cases hung <;> rfl
  | ended p => exact engineHang_of_not_busy (by simp [phaseState])
  | returned => exact absurd hlive nofun
  | gaveUp k hung => exact absurd hlive nofun

/-- The commuting square: a turn of the machine is a turn of the phases, and a press sets `cancel` beside it. -/
theorem takeTurn_phase (e : Turn) {ph : Phase} (hlive : ph.live = true) :
    takeTurn e (withTurns (phaseState a ph) c ts n) =
      .next (withTurns (phaseState a (ph.next a.cfg e)) (cancelAfter c [e]) ts n) := by
  cases e with
  | mainline =>
    rw [cancelAfter_mainline, cancelAfter_nil]
    exact mainlineStep_phase ha c ts n hlive
  | engine =>
    rw [cancelAfter_engine, cancelAfter_nil]
    exact congrArg Host.Outcome.next (engineStep_phase ha c ts n hlive)
  | engineHang =>
    rw [cancelAfter_engineHang, cancelAfter_nil]
    exact congrArg Host.Outcome.next (engineHang_phase ha c ts n hlive)
  | button =>
    have hsame : ph.next a.cfg .button = ph := by cases ph <;> rfl
    rw [hsame, cancelAfter_button]
    rfl

end

/-- In every interleaving the state is that of some phase, and `cancel` is not cleared. -/
theorem inTransmit_phase {a t : State} (ha : JustArmed a) (h : InTransmit a t) :
    ∃ ph, t = withTurns (phaseState a ph) t.cancel t.turns t.tick ∧ (a.cancel = true → t.cancel = true) := by
  induction h with
  | refl => exact ⟨.armed, rfl, id⟩
  | @tail t u _ hsync hstep ih =>
    obtain ⟨ph, ht, hcancel⟩ := ih
    have hlive : ph.live = true := live_of_sync_ne_idle (a := a) (by rw [ht] at hsync; exact hsync)
    have hadvance : advance t = withTurns (phaseState a ph) t.cancel t.turns.tail (t.tick + 1) := by
      conv_lhs => rw [ht]
      rfl
    rw [step, hadvance, takeTurn_phase ha _ _ _ _ hlive] at hstep
    obtain rfl := Host.Outcome.next.inj hstep
    exact ⟨_, rfl, fun hc => by simp [withTurns, cancelAfter, hcancel hc]⟩

/-! ## T1 -/

/-- What T1 of a TRANSMIT leaves: of the host's, which accepts the word, or of a pattern's. -/
structure ArmedFrom (s a : State) : Prop where
  shape : a = { s with
    done := false, sync := .armed, run := a.run, pending := a.pending, turns := a.turns, tick := a.tick }
  transmits : a.run.transmits = true
  txfault : s.txfault = false

theorem transmitStep_armed {s : State} {r : TxStep} (hs : s.sync = .idle) (hr : transmitStep s = .next r) :
    s.txfault = false ∧ r = ⟨{ s with done := false, sync := .armed }, none⟩ := by
  rcases transmitStep_cases hr with ⟨-, hf, -, rfl⟩ | ⟨hs', -⟩ | ⟨p, hs', -⟩ | ⟨T, n, hs', -⟩ | ⟨p, hs', -⟩
  · exact ⟨hf, rfl⟩
  all_goals exact absurd (hs.symm.trans hs') nofun

theorem armedFrom_settle {s : State} {r : TxStep} {run : Activity} (hs : s.sync = .idle) (hrun : run.transmits = true)
    (hr : transmitStep s = .next r) : ArmedFrom s (settle run r) := by
  obtain ⟨hf, rfl⟩ := transmitStep_armed hs hr
  exact ⟨rfl, hrun, hf⟩

/-- Of the host's commands only TRANSMIT moves the Synchronizer. -/
theorem exec_sync {s t : State} {i : Instr} (hrun : s.run = .host) (hexec : exec i s = .next t) :
    i = .transmit ∨ t.sync = s.sync := by
  cases i with
  | transmit => exact .inl rfl
  | setpx c index =>
    by_cases hin : 0 ≤ index ∧ index < s.cfg.leds
    · rw [exec_setpx_of_inRange c hin] at hexec
      cases hexec
      exact .inr rfl
    · rw [exec_setpx_of_outOfRange c hin] at hexec
      cases hexec
      exact .inr rfl
  | encode =>
    obtain ⟨-, rfl⟩ := exec_encode_eq_next.1 hexec
    exact .inr rfl
  | patCycle =>
    obtain ⟨-, rfl⟩ := startPattern_eq_next.1 (execPatCycle_of_host hrun ▸ hexec)
    exact .inr rfl
  | patRainbow =>
    obtain ⟨-, rfl⟩ := startPattern_eq_next.1 (execPatRainbow_of_host hrun ▸ hexec)
    exact .inr rfl
  | _ =>
    cases hexec
    exact .inr rfl

theorem execTransmit_armedFrom {s t : State} (hs : s.sync = .idle) (hexec : execTransmit s = .next t) :
    ArmedFrom s t := by
  obtain ⟨r, hr, rfl⟩ := execTransmit_eq_next.1 hexec
  exact afterTransmit_eq_settle r ▸ armedFrom_settle hs rfl hr

theorem patternStep_arms {s t : State} {it : Iteration} (hit : it.Laws) {p : PatPoint} (hs : s.sync = .idle)
    (hstep : patternStep it p s = .next t) (ht : t.sync = .armed) : ArmedFrom s t := by
  rcases patternStep_cases hstep with ⟨-, rfl⟩ | ⟨-, -, rfl⟩ | ⟨-, r, hr, rfl⟩ | ⟨-, rfl⟩ | ⟨-, -, rfl⟩ | ⟨-, -, rfl⟩
  case inr.inr.inl =>
    rw [patternTransmitted_eq_settle rfl hit.afterOk.symm hit.okResponses]
    exact armedFrom_settle hs hit.transmits hr
  all_goals exact absurd (hs.symm.trans ht) nofun

theorem mainlineStep_armedFrom {s t : State} (hs : s.sync = .idle) (hstep : mainlineStep s = .next t)
    (ht : t.sync = .armed) : ArmedFrom s t := by
  rcases mainlineStep_cases hstep with ⟨-, -, rfl⟩ | ⟨C, rest, e, -, -, -, rfl⟩ | ⟨C, rest, i, hrun, -, -, hexec⟩ |
    ⟨-, hexec⟩ | ⟨c, p, -, hpat⟩ | ⟨hue, p, -, hpat⟩
  · exact absurd (hs.symm.trans ht) nofun
  · exact absurd ((show s.sync = .armed from ht).symm.trans hs) nofun
  · rcases exec_sync (s := { s with pending := rest }) hrun hexec with rfl | hkeep
    · obtain ⟨hshape, htr, hf⟩ := execTransmit_armedFrom (s := { s with pending := rest }) hs hexec
      exact ⟨hshape, htr, hf⟩
    · exact absurd (hs.symm.trans (hkeep.symm.trans ht)) nofun
  · exact execTransmit_armedFrom hs hexec
  · exact patternStep_arms (cycleIteration_laws _ c) hs hpat ht
  · exact patternStep_arms (rainbowIteration_laws _ hue) hs hpat ht

theorem step_armedFrom {s a : State} (hs : s.sync = .idle) (hstep : step s = .next a) (ha : a.sync = .armed) :
    ArmedFrom s a := by
  rcases step_mainline_or_other hstep with ⟨-, hmain⟩ | ⟨-, hother⟩
  · obtain ⟨hshape, htr, hf⟩ := mainlineStep_armedFrom (s := advance s) hs hmain ha
    exact ⟨hshape, htr, hf⟩
  · rw [hother.shape] at ha
    exact absurd (hs.symm.trans ha) nofun

theorem justArmed_of_inv {a : State} (h : a.Inv) (hs : a.sync = .armed) : JustArmed a := by
  obtain ⟨-, -, hdone, hidle⟩ := h.armed hs
  exact ⟨transmits_of_sync_ne_idle h (by simp [hs]), hs, hidle, hdone, h.memory.2⟩

/-- What holds at the end of every transmission that began with T1 at `s`. -/
theorem inTransmit_ends {s a t : State} (hinv : s.Inv) (hs : s.sync = .idle) (hstep : step s = .next a)
    (ha : a.sync = .armed) (hin : InTransmit a t) (hidle : t.sync = .idle) :
    ArmedFrom s a ∧ a.xfer = .idle ∧ (s.cancel = true → t.cancel = true) ∧
    (t = withTurns (phaseState a .returned) t.cancel t.turns t.tick ∨
      ∃ k hung, t = withTurns (phaseState a (.gaveUp k hung)) t.cancel t.turns t.tick) := by
  have hjust := justArmed_of_inv (step_inv hinv hstep) ha
  have hfrom := step_armedFrom hs hstep ha
  obtain ⟨ph, ht, hcancel⟩ := inTransmit_phase hjust hin
  have hkeep : a.cancel = s.cancel := by rw [hfrom.shape]
  refine ⟨hfrom, hjust.xfer, fun hc => hcancel (hkeep.trans hc), ?_⟩
  rw [ht] at hidle
  cases ph with
  | armed => exact absurd (hjust.sync.symm.trans hidle) nofun
  | flying k hung p => exact absurd hidle nofun
  | ended p => exact absurd hidle nofun
  | returned => exact .inl ht
  | gaveUp k hung => exact .inr ⟨k, hung, ht⟩

/-! ## The statements -/

/-- Settles O52: of the two phases that end a transmission `returned` is the one without a timeout. -/
theorem transmitReturnsOnlyAfterTheWholeBuffer : Obligations.TransmitReturnsOnlyAfterTheWholeBuffer := by
  intro s a t hinv hs hstep ha hin hidle hfault
  obtain ⟨⟨hshape, -, -⟩, hx, hcancel, ht | ⟨k, hung, ht⟩⟩ := inTransmit_ends hinv hs hstep ha hin hidle
  · have hrun : t.run = a.run.afterOk := by rw [ht]; rfl
    have hresp : t.responses = s.responses ++ a.run.okResponses := by rw [ht, hshape]; rfl
    have hidle' : s.xfer = .idle := by rw [hshape] at hx; exact hx
    refine ⟨?_, hidle', hcancel, fun hr => ?_, fun c p hr => ?_, fun hue p hr => ?_⟩
    · rw [hrun, hresp, ht, hshape]
      simp [withTurns, phaseState, hidle', hs]
    · rw [hrun, hresp, hr]
      exact ⟨rfl, rfl⟩
    · rw [hrun, hresp, hr]
      exact ⟨rfl, List.append_nil _⟩
    · rw [hrun, hresp, hr]
      exact ⟨rfl, List.append_nil _⟩
  · rw [ht] at hfault
    exact absurd hfault nofun

/-- Settles O53: of the two phases that end a transmission `gaveUp` is the one with a timeout. -/
theorem timeoutLeavesTheTransferInFlight : Obligations.TimeoutLeavesTheTransferInFlight := by
  intro s a t hinv hs hstep ha hin hidle hfault
  obtain ⟨⟨hshape, -, hf⟩, -, hcancel, ht | ⟨k, hung, ht⟩⟩ := inTransmit_ends hinv hs hstep ha hin hidle
  · rw [ht, hshape] at hfault
    exact absurd (hf.symm.trans hfault) nofun
  · have hx : t.xfer = xferAt k hung := by rw [ht]; rfl
    refine ⟨k, ?_, ?_, hcancel⟩
    · rw [hx]
      cases hung
      · exact .inl rfl
      · exact .inr rfl
    · rw [hx, ht, hshape]
      simp [withTurns, phaseState, hs]

end Sys2Proof.Machine
end

section
/-! PROOFS. The bound in polls (43_synchronizer.md R132, D6): without a completion a TRANSMIT gives up after exactly the
polls that are left, and in any schedule that holds them it returns. -/

namespace Sys2Proof.Machine

theorem step_of_turns {s : State} {e : Turn} {ts : List Turn} (h : s.turns = e :: ts) :
    step s = takeTurn e (withTurns s s.cancel ts (s.tick + 1)) := by
  have hturn : nextTurn s = e := by rw [nextTurn, h]
  have hadvance : advance s = withTurns s s.cancel ts (s.tick + 1) := by rw [advance, h]; rfl
  rw [step_of_nextTurn hturn, hadvance]

/-- With `done` clear all along, `m + 1` polls are left and the last of them gives up, in a pattern too. -/
theorem runSteps_givesUp (m : Nat) {s : State} {n T : Nat} {ts : List Turn} (htr : s.run.transmits = true)
    (hs : s.sync = .wait (some n)) (hd : s.done = false) (hT : s.cfg.timeoutPolls = some T) (hleft : n + (m + 1) = T)
    (ht : s.turns = List.replicate (m + 1) .mainline ++ ts) :
    runSteps (m + 1) s = .next { s with
      txfault := true, sync := .idle, run := .host, responses := s.responses ++ [0x02000000#32], turns := ts
      tick := s.tick + (m + 1) } := by
  induction m generalizing s n with
  | zero =>
    have hlast : lastPoll s.cfg (some n) = true := lastPoll_of_le hT (by omega)
    have hstep := (step_of_turns ht).trans
      (mainlineStep_givesUp (s := withTurns s s.cancel ts (s.tick + 1)) htr hs hd hlast)
    rw [runSteps_succ 0 hstep]
    rfl
  | succ m ih =>
    have hcount : lastPoll s.cfg (some n) = false := lastPoll_of_lt hT (by omega)
    have hstep := (step_of_turns ht).trans
      (mainlineStep_counts (s := withTurns s s.cancel _ (s.tick + 1)) htr hs hd hcount)
    rw [runSteps_succ (m + 1) hstep]
    refine Eq.trans (ih (n := n + 1) ?_ rfl ?_ ?_ (by omega) rfl) ?_
    · exact htr
    · exact hd
    · exact hT
    · simp only [withTurns, Nat.add_assoc, Nat.add_comm 1]

/-- Settles O55: the bound leaves `T - n` polls. -/
theorem transmitGivesUpAfterTheBound : Obligations.TransmitGivesUpAfterTheBound := by
  intro s n T ts hrun hs hd hT hlt ht
  obtain ⟨m, hm⟩ : ∃ m, T - n = m + 1 := ⟨T - n - 1, by omega⟩
  rw [hm] at ht ⊢
  exact runSteps_givesUp m (by rw [hrun]; rfl) hs hd hT (by omega) ht

/-- What a turn of the mainline does to a wait under a bound: it ends it, or counts one poll. -/
theorem mainlineStep_in_wait {s : State} {n T : Nat} (htr : s.run.transmits = true) (hs : s.sync = .wait (some n))
    (hT : s.cfg.timeoutPolls = some T) :
    ∃ t, mainlineStep s = .next t ∧
      (t.sync = .idle ∨ n + 1 < T ∧ t = { s with sync := .wait (some (n + 1)) }) := by
  by_cases hd : s.done = true
  · exact ⟨_, mainlineStep_returnsOk htr hs hd, .inl rfl⟩
  · have hd' : s.done = false := by simpa using hd
    by_cases hle : T ≤ n + 1
    · exact ⟨_, mainlineStep_givesUp htr hs hd' (lastPoll_of_le hT hle), .inl rfl⟩
    · have hlt : n + 1 < T := by omega
      exact ⟨_, mainlineStep_counts htr hs hd' (lastPoll_of_lt hT hlt), .inr ⟨hlt, rfl⟩⟩

/-- One step before a run that reaches an idle Synchronizer. -/
theorem reachesIdle_of_step {s t : State} {m : Nat} (hstep : step s = .next t)
    (h : ∃ k ≤ m, ∃ u, runSteps k t = .next u ∧ u.sync = .idle) :
    ∃ k ≤ m + 1, ∃ u, runSteps k s = .next u ∧ u.sync = .idle := by
  obtain ⟨k, hk, u, hrun, hu⟩ := h
  exact ⟨k + 1, by omega, u, (runSteps_succ k hstep).trans hrun, hu⟩

theorem polls_lt_bound {s : State} {n T : Nat} (h : s.Inv) (hs : s.sync = .wait (some n))
    (hT : s.cfg.timeoutPolls = some T) : n < T := by
  have hbound := h.bound
  rw [hs] at hbound
  simpa [Sync.withinBound, hT] using hbound

/-- Settles O56, by induction on the turns: those of the other agents leave the wait as it is, and each of the
mainline's ends it or uses up one of the polls that are left. -/
theorem transmitReturnsWithinTheBound : Obligations.TransmitReturnsWithinTheBound := by
  intro s n T ts rest hinv hs hT hcount ht
  induction ts generalizing s n with
  | nil =>
    have hlt := polls_lt_bound hinv hs hT
    rw [List.count_nil] at hcount
    omega
  | cons e ts ih =>
    have hstep := step_of_turns ht
    by_cases he : e = .mainline
    · subst he
      have htr : s.run.transmits = true := transmits_of_sync_ne_idle hinv (by simp [hs])
      obtain ⟨t, hmain, hidle | ⟨hlt, rfl⟩⟩ :=
        mainlineStep_in_wait (s := withTurns s s.cancel (ts ++ rest) (s.tick + 1)) htr hs hT
      · exact reachesIdle_of_step (hstep.trans hmain) ⟨0, Nat.zero_le _, t, rfl, hidle⟩
      · refine reachesIdle_of_step (hstep.trans hmain) (ih _ (n + 1) (step_inv hinv (hstep.trans hmain)) rfl hT ?_ rfl)
        rw [List.count_cons_self] at hcount
        omega
    · obtain ⟨t, hother, hwrites⟩ := takeTurn_other he (withTurns s s.cancel (ts ++ rest) (s.tick + 1))
      have hshape := hwrites.shape
      refine reachesIdle_of_step (hstep.trans hother) (ih t n (step_inv hinv (hstep.trans hother)) ?_ ?_ ?_ ?_)
      · rw [hshape]; exact hs
      · rw [hshape]; exact hT
      · rwa [List.count_cons_of_ne he] at hcount
      · rw [hshape]; rfl

end Sys2Proof.Machine
end

section
/-! PROOFS. Transmissions with the engine in time (43_synchronizer.md R132, R135; 44_pattern_sequencer.md R143 to R145,
R147). `Runs c us s t` says that the turns `us` lead from `s` to `t`; schedules are put together as lists are, and each
piece is a stretch without the mainline, one turn of the mainline, or a run of the phases. -/

namespace Sys2Proof.Machine

/-! ## Runs over a given schedule -/

/-- From `s` with `cancel` at `c`, the turns `us` end in `t`, with `cancel` set by the presses among them. -/
def Runs (c : Bool) (us : List Turn) (s t : State) : Prop :=
  ∀ (ts : List Turn) (n : Nat), runSteps us.length (withTurns s c (us ++ ts) n) =
    .next (withTurns t (cancelAfter c us) ts (n + us.length))

/-- The mainline's turn goes from `s` to `t` and looks at neither `cancel`, here `c`, nor the turns. -/
def MainTurn (c : Bool) (s t : State) : Prop :=
  ∀ (ts : List Turn) (n : Nat), mainlineStep (withTurns s c ts n) = .next (withTurns t c ts n)

theorem runs_nil (c : Bool) (s : State) : Runs c [] s s := by
  intro ts n
  rw [cancelAfter_nil]
  rfl

theorem Runs.append {c : Bool} {us vs : List Turn} {s t u : State} (h₁ : Runs c us s t)
    (h₂ : Runs (cancelAfter c us) vs t u) : Runs c (us ++ vs) s u := by
  intro ts n
  rw [List.length_append, List.append_assoc, runSteps_add _ _ (h₁ (vs ++ ts) n), h₂, cancelAfter_append, Nat.add_assoc]

theorem runs_single {c : Bool} {e : Turn} {s t : State}
    (h : ∀ ts n, takeTurn e (withTurns s c ts n) = .next (withTurns t (cancelAfter c [e]) ts n)) : Runs c [e] s t :=
  fun ts n => runSteps_succ 0 (h ts (n + 1))

theorem runs_mainline {c : Bool} {s t : State} (h : MainTurn c s t) : Runs c [.mainline] s t := by
  refine runs_single fun ts n => ?_
  rw [cancelAfter_mainline, cancelAfter_nil]
  exact h ts n

/-- With no transfer in flight, a stretch without the mainline changes nothing but `cancel`. -/
theorem runs_quiet (c : Bool) {q : List Turn} {s : State} (hq : Quiet q) (hx : s.xfer = .idle) : Runs c q s s :=
  fun ts n => runSteps_quiet q (s := withTurns s c (q ++ ts) n) hq hx rfl

/-- A quiet stretch, then one turn of the mainline, then the rest. -/
theorem Runs.quiet_mainline {c : Bool} {q us : List Turn} {s t u : State} (hq : Quiet q)
    (hmain : MainTurn (cancelAfter c q) s t) (hx : s.xfer = .idle) (hrest : Runs (cancelAfter c q) us t u) :
    Runs c (q ++ .mainline :: us) s u := by
  refine (runs_quiet c hq hx).append ((runs_mainline hmain).append (us := [.mainline]) ?_)
  rwa [cancelAfter_mainline, cancelAfter_nil]

/-- A run from a state whose coming turns are the schedule. -/
theorem Runs.runSteps_eq {us ts : List Turn} {s t : State} (h : Runs s.cancel us s t) (ht : s.turns = us ++ ts) :
    runSteps us.length s = .next (withTurns t (cancelAfter s.cancel us) ts (s.tick + us.length)) := by
  have hs : s = withTurns s s.cancel (us ++ ts) s.tick := by rw [← ht]; rfl
  conv_lhs => rw [hs]
  exact h ts s.tick

/-! ## The phases with the engine in time -/

/-- The turns `us` lead through live phases from `ph` to `ph'`. -/
inductive PhaseRun (cfg : Config) : Phase → List Turn → Phase → Prop
  | nil (ph : Phase) : PhaseRun cfg ph [] ph
  | cons {ph ph' : Phase} {e : Turn} {us : List Turn} (hlive : ph.live = true)
    (hrest : PhaseRun cfg (ph.next cfg e) us ph') : PhaseRun cfg ph (e :: us) ph'

theorem PhaseRun.append {cfg : Config} {ph₁ ph₂ ph₃ : Phase} {us vs : List Turn} (h₁ : PhaseRun cfg ph₁ us ph₂)
    (h₂ : PhaseRun cfg ph₂ vs ph₃) : PhaseRun cfg ph₁ (us ++ vs) ph₃ := by
  induction h₁ with
  | nil => exact h₂
  | cons hlive _ ih => exact .cons hlive (ih h₂)

/-- The machine follows the phases. -/
theorem PhaseRun.runs {a : State} (ha : JustArmed a) {ph ph' : Phase} {us : List Turn} (h : PhaseRun a.cfg ph us ph')
    (c : Bool) : Runs c us (phaseState a ph) (phaseState a ph') := by
  induction h generalizing c with
  | nil ph => exact runs_nil c _
  | @cons ph ph' e us hlive _ ih =>
    exact (runs_single fun ts n => takeTurn_phase ha c ts n e hlive).append (us := [e]) (ih (cancelAfter c [e]))

/-- A phase that only the mainline's turn changes stands through a quiet stretch. -/
theorem phaseRun_quiet {cfg : Config} {ph : Phase} (hlive : ph.live = true)
    (hkeep : ∀ e, e ≠ .mainline → ph.next cfg e = ph) {q : List Turn} (hq : Quiet q) : PhaseRun cfg ph q ph := by
  induction q with
  | nil => exact .nil ph
  | cons e q ih =>
    have hne : e ≠ .mainline := fun h => hq (h ▸ List.mem_cons_self)
    refine .cons hlive ?_
    rw [hkeep e hne]
    exact ih fun h => hq (List.mem_cons_of_mem e h)

theorem armed_next_of_ne_mainline {cfg : Config} {e : Turn} (he : e ≠ .mainline) : Phase.armed.next cfg e = .armed := by
  cases e with
  | mainline => exact absurd rfl he
  | _ => rfl

theorem ended_next_of_ne_mainline {cfg : Config} {p : Option Nat} {e : Turn} (he : e ≠ .mainline) :
    (Phase.ended p).next cfg e = .ended p := by
  cases e with
  | mainline => exact absurd rfl he
  | _ => rfl

/-- `m` more unsuccessful polls are below the bound, if there is one. -/
def PollsLeft (cfg : Config) (p : Option Nat) (m : Nat) : Prop :=
  ∀ T, cfg.timeoutPolls = some T → ∃ n, p = some n ∧ n + m < T

theorem PollsLeft.not_last {cfg : Config} {p : Option Nat} {m : Nat} (h : PollsLeft cfg p (m + 1)) :
    lastPoll cfg p = false := by
  cases hT : cfg.timeoutPolls with
  | none => exact lastPoll_of_unbounded hT p
  | some T =>
    obtain ⟨n, rfl, hlt⟩ := h T hT
    exact lastPoll_of_lt hT (by omega)

theorem PollsLeft.count {cfg : Config} {p : Option Nat} {m : Nat} (h : PollsLeft cfg p (m + 1)) :
    PollsLeft cfg (countPoll p) m := by
  intro T hT
  obtain ⟨n, rfl, hlt⟩ := h T hT
  exact ⟨n + 1, rfl, by omega⟩

theorem pollsLeft_initial {cfg : Config} {m : Nat} (h : ∀ T, cfg.timeoutPolls = some T → m < T) :
    PollsLeft cfg (initialPolls cfg) m :=
  fun T hT => ⟨0, initialPolls_eq_some hT, by simpa using h T hT⟩

/-- Through the engine's steps, polls below the bound and presses among them, the transfer goes to its last entry. -/
theorem phaseRun_flying {cfg : Config} {u : List Turn} {k : Nat} {p : Option Nat}
    (hcount : k + u.count .engine = cfg.bufferLen) (hhang : Turn.engineHang ∉ u)
    (hpolls : PollsLeft cfg p (u.count .mainline)) :
    ∃ p', PhaseRun cfg (.flying k false p) u (.flying cfg.bufferLen false p') := by
  induction u generalizing k p with
  | nil =>
    obtain rfl : k = cfg.bufferLen := by simpa using hcount
    exact ⟨p, .nil _⟩
  | cons e u ih =>
    have hhang' : Turn.engineHang ∉ u := fun hmem => hhang (List.mem_cons_of_mem e hmem)
    cases e with
    | mainline =>
      rw [List.count_cons_self] at hpolls
      rw [List.count_cons_of_ne (by decide)] at hcount
      obtain ⟨p', hrun⟩ := ih hcount hhang' hpolls.count
      refine ⟨p', .cons rfl ?_⟩
      simpa only [Phase.next, hpolls.not_last, Bool.false_eq_true, if_false] using hrun
    | engine =>
      rw [List.count_cons_self] at hcount
      rw [List.count_cons_of_ne (by decide)] at hpolls
      obtain ⟨p', hrun⟩ := ih (k := k + 1) (by omega) hhang' hpolls
      have hlt : k < cfg.bufferLen := by omega
      refine ⟨p', .cons rfl ?_⟩
      simpa only [Phase.next, hlt, if_true] using hrun
    | engineHang => exact absurd List.mem_cons_self hhang
    | button =>
      rw [List.count_cons_of_ne (by decide)] at hcount hpolls
      obtain ⟨p', hrun⟩ := ih hcount hhang' hpolls
      exact ⟨p', .cons rfl hrun⟩

/-- From T1 to the return: what follows T1 in a schedule with the engine in time. -/
theorem phaseRun_inTime {cfg : Config} {q u v : List Turn} (hq : Quiet q) (hv : Quiet v)
    (hcount : u.count .engine = cfg.bufferLen) (hhang : Turn.engineHang ∉ u)
    (hpolls : ∀ T, cfg.timeoutPolls = some T → u.count .mainline < T) :
    PhaseRun cfg .armed (q ++ .mainline :: (u ++ .engine :: (v ++ [.mainline]))) .returned := by
  obtain ⟨p, hflight⟩ := phaseRun_flying (k := 0) (by omega) hhang (pollsLeft_initial hpolls)
  have hend : (Phase.flying cfg.bufferLen false p).next cfg .engine = .ended p := by
    simp only [Phase.next, lt_irrefl, if_false, if_true]
  refine (phaseRun_quiet rfl (fun _ => armed_next_of_ne_mainline) hq).append (.cons rfl (hflight.append (.cons rfl ?_)))
  rw [hend]
  exact (phaseRun_quiet rfl (fun _ => ended_next_of_ne_mainline) hv).append (.cons rfl (.nil _))

/-- A whole transmission with the engine in time, from the state `s` before T1, which leads to `a`. -/
theorem runs_transfer {c : Bool} {w : List Turn} {s a : State} (hw : TransferInTime a.cfg w) (hx : s.xfer = .idle)
    (ha : JustArmed a) (hT1 : ∀ c, MainTurn c s a) : Runs c w s (phaseState a .returned) := by
  obtain ⟨q₁, q₂, u, v, hq₁, hq₂, hv, hcount, hhang, hpolls, rfl⟩ := hw
  exact .quiet_mainline hq₁ (hT1 _) hx ((phaseRun_inTime hq₂ hv hcount hhang hpolls).runs ha _)

/-! ## SHOW -/

/-- The mainline's turn when the host issues a command. -/
theorem mainTurn_issue {c : Bool} {s t : State} {i : Instr} {rest : List Word} (hrun : s.run = .host)
    (hwf : i.wf = true) (hp : s.pending = encode i :: rest)
    (hexec : ∀ ts n, exec i (withTurns { s with pending := rest } c ts n) = .next (withTurns t c ts n)) :
    MainTurn c s t :=
  fun ts n => (mainlineStep_of_decode_ok (s := withTurns s c ts n) hrun hp (decodeOfEncodeIsTheCommand i hwf)).trans
    (hexec ts n)

/-- After the host's ENCODE, with `rest` still to come. -/
def encodedState (s : State) (rest : List Word) : State :=
  { s with
    pulse := encodeList s.cfg s.frame, pvalid := true, run := .host, responses := s.responses ++ [0#32]
    pending := rest }

theorem mainTurn_encode (c : Bool) {s : State} {rest : List Word} (hrun : s.run = .host) (hf : s.txfault = false)
    (hp : s.pending = encode .encode :: rest) : MainTurn c s (encodedState s rest) := by
  refine mainTurn_issue hrun rfl hp fun ts n => ?_
  rw [exec_encode_of_no_txfault (s := withTurns { s with pending := rest } c ts n) hf, respond, responseWord_ok_zero]
  rfl

/-- After T1 of the host's TRANSMIT. -/
def hostArmed (s : State) (rest : List Word) : State :=
  { s with done := false, sync := .armed, run := .transmit, pending := rest }

theorem mainTurn_transmit (c : Bool) {s : State} {rest : List Word} (hrun : s.run = .host) (hs : s.sync = .idle)
    (hpv : s.pvalid = true) (hf : s.txfault = false) (hp : s.pending = encode .transmit :: rest) :
    MainTurn c s (hostArmed s rest) :=
  mainTurn_issue hrun rfl hp fun ts n =>
    transmitFirstClearsDone (withTurns { s with pending := rest } c ts n) hs hpv hf

/-- ENCODE after a quiet stretch, then a transmission with the engine in time. -/
theorem runs_show {s : State} {q w : List Turn} {rest : List Word} (hinv : s.Inv) (hrun : s.run = .host)
    (hf : s.txfault = false) (hp : s.pending = encode .encode :: encode .transmit :: rest) (hq : Quiet q)
    (hw : TransferInTime s.cfg w) : Runs s.cancel (q ++ .mainline :: w) s
      (phaseState (hostArmed (encodedState s (encode .transmit :: rest)) rest) .returned) := by
  have hs := sync_idle_of_host hinv hrun
  have hx := hinv.quiet hs hf
  have hlen := (writePulse_encodeList_keeps_memory hinv.memory).2
  have harmed : JustArmed (hostArmed (encodedState s (encode .transmit :: rest)) rest) := ⟨rfl, rfl, hx, rfl, hlen⟩
  exact .quiet_mainline hq (mainTurn_encode _ hrun hf hp) hx
    (runs_transfer hw hx harmed fun c => mainTurn_transmit c rfl hs rfl hf rfl)

/-- Settles O54: `runs_show`, its end state written out. -/
theorem showSendsTheEncodedFrame : Obligations.ShowSendsTheEncodedFrame := by
  intro s q w ts rest hinv hrun hf hp hq hw ht
  have hs := sync_idle_of_host hinv hrun
  have hx := hinv.quiet hs hf
  have hcancel : cancelAfter s.cancel (q ++ .mainline :: w) = cancelAfter s.cancel (q ++ w) := by
    rw [cancelAfter_append, cancelAfter_mainline, ← cancelAfter_append]
  have hlength : (q ++ .mainline :: w).length = q.length + 1 + w.length := by
    rw [List.length_append, List.length_cons]
    omega
  rw [← hlength, (runs_show hinv hrun hf hp hq hw).runSteps_eq (ts := ts) (by simpa using ht), hcancel]
  simp [withTurns, phaseState, hostArmed, encodedState, Activity.afterOk, Activity.okResponses, hs, hrun, hx]

/-! ## One iteration of a pattern -/

/-- The mainline's turn at each point of `it` is `patternStep`. -/
def Iteration.Drives (cfg : Config) (it : Iteration) : Prop :=
  ∀ (s : State) (p : PatPoint), s.cfg = cfg → s.run = it.pointAt p → mainlineStep s = patternStep it p s

theorem cycleIteration_drives (cfg : Config) (c : CycleColour) : (cycleIteration cfg c).Drives cfg := by
  rintro s p rfl hrun
  exact mainlineStep_eq_cycle (hrun.trans (cycleIteration_pointAt s.cfg c p))

theorem rainbowIteration_drives (cfg : Config) (hue : Fin 1536) : (rainbowIteration cfg hue).Drives cfg := by
  rintro s p rfl hrun
  exact mainlineStep_eq_rainbow (hrun.trans (rainbowIteration_pointAt s.cfg hue p))

/-- After the fill of an iteration. -/
def filledState (it : Iteration) (s : State) (rest : List Word) : State :=
  { s with frame := List.replicate s.cfg.leds it.colour, run := it.encodeAt, pending := rest }

/-- After the encode of an iteration. -/
def patternEncoded (it : Iteration) (s : State) (rest : List Word) : State :=
  { filledState it s rest with
    pulse := encodeList s.cfg (List.replicate s.cfg.leds it.colour), pvalid := true, run := it.transmitAt }

/-- After T1 of an iteration's transmission. -/
def patternArmed (it : Iteration) (s : State) (rest : List Word) : State :=
  { patternEncoded it s rest with done := false, sync := .armed }

/-- After the transmission of an iteration, with the mainline at `run`. -/
def sentState (it : Iteration) (s : State) (rest : List Word) (run : Activity) : State :=
  { s with
    frame := List.replicate s.cfg.leds it.colour, pulse := encodeList s.cfg (List.replicate s.cfg.leds it.colour)
    pvalid := true, wire := s.wire ++ encodeList s.cfg (List.replicate s.cfg.leds it.colour), done := false
    pending := rest, run := run }

/-- After an iteration that sent its frame, with `cancel` at `c` (44_pattern_sequencer.md R143). -/
def iterationEnd (it : Iteration) (s : State) (rest : List Word) (c : Bool) : State :=
  if c then { sentState it s rest .host with responses := s.responses ++ [0#32] } else sentState it s rest it.nextAt

section
variable {it : Iteration} {s : State} (hit : it.Laws) (hdrives : it.Drives s.cfg) (rest : List Word) (c : Bool)

include hdrives in
/-- The mainline's turn at a point of the iteration. -/
theorem mainTurn_point {u t : State} (hcfg : u.cfg = s.cfg) (p : PatPoint) (hrun : u.run = it.pointAt p)
    (hstep : ∀ ts n, patternStep it p (withTurns u c ts n) = .next (withTurns t c ts n)) : MainTurn c u t :=
  fun ts n => (hdrives (withTurns u c ts n) p hcfg hrun).trans (hstep ts n)

include hdrives in
theorem mainTurn_fill (hrun : s.run = it.fillAt) (hp : s.pending = rest) : MainTurn c s (filledState it s rest) := by
  refine mainTurn_point hdrives c rfl .fill hrun fun ts n => (patternStep_fill it _).trans ?_
  rw [← hp]
  rfl

include hdrives in
theorem mainTurn_patternEncode (hf : s.txfault = false) :
    MainTurn c (filledState it s rest) (patternEncoded it s rest) :=
  mainTurn_point hdrives c rfl .encode rfl fun _ _ => patternStep_encode it hf

include hit in
theorem mainTurn_patternArm (hs : s.sync = .idle) (hf : s.txfault = false) :
    MainTurn c (patternEncoded it s rest) (patternArmed it s rest) :=
  fun ts n => mainlineStep_arms (s := withTurns (patternEncoded it s rest) c ts n) hit.transmits hs rfl hf

include hdrives in
theorem mainTurn_delay : MainTurn c (sentState it s rest it.delayAt) (sentState it s rest it.checkAt) :=
  mainTurn_point hdrives c rfl .delay rfl fun _ _ => patternStep_delay it _

include hdrives in
theorem mainTurn_check : MainTurn c (sentState it s rest it.checkAt) (iterationEnd it s rest c) := by
  refine mainTurn_point hdrives c rfl .check rfl fun ts n => (patternStep_check it _).trans ?_
  cases c <;> rfl

include hit in
theorem phaseState_patternArmed_returned (hs : s.sync = .idle) (hx : s.xfer = .idle) :
    phaseState (patternArmed it s rest) .returned = sentState it s rest it.delayAt := by
  have hrun : (patternArmed it s rest).run = it.transmitAt := rfl
  simp only [phaseState, hrun, hit.afterOk, hit.okResponses, List.append_nil]
  simp [patternArmed, patternEncoded, filledState, sentState, hs, hx]

include hit hdrives in
/-- One iteration with its transfer in time, once the mainline's first turn is known to be its fill. -/
theorem runs_iteration {w : List Turn} (hs : s.sync = .idle) (hx : s.xfer = .idle) (hf : s.txfault = false)
    (hfill : ∀ c, MainTurn c s (filledState it s rest)) (hw : IterationInTime s.cfg w) :
    Runs c w s (iterationEnd it s rest (cancelAfter c w)) := by
  obtain ⟨q₁, q₂, w', q₃, q₄, hq₁, hq₂, hw', hq₃, hq₄, rfl⟩ := hw
  have hlen : (encodeList s.cfg (List.replicate s.cfg.leds it.colour)).length = s.cfg.bufferLen := by
    simp [encodeList_length, Config.bufferLen, Config.bitsPerLed]
  have hsend := fun c => runs_transfer (c := c) (a := patternArmed it s rest) hw' (s := patternEncoded it s rest) hx
    ⟨hit.transmits, rfl, hx, rfl, hlen⟩ fun c => mainTurn_patternArm hit rest c hs hf
  rw [phaseState_patternArmed_returned hit rest hs hx] at hsend
  have hcheck := fun c => (runs_quiet c hq₄ (s := sentState it s rest it.checkAt) hx).append
     (runs_mainline (mainTurn_check hdrives rest (cancelAfter c q₄)))
  have hall := Runs.quiet_mainline (c := c) hq₁ (hfill _) hx
    (.quiet_mainline hq₂ (mainTurn_patternEncode hdrives rest _ hf) hx
      ((hsend _).append (.quiet_mainline hq₃ (mainTurn_delay hdrives rest _) hx (hcheck _))))
  simpa only [cancelAfter_append, cancelAfter_mainline, cancelAfter_nil] using hall

end

/-- The start of a pattern by the host is the fill of its first iteration. -/
theorem mainTurn_start {it : Iteration} {s : State} {i : Instr} {rest : List Word} (c : Bool) (hrun : s.run = .host)
    (hf : s.txfault = false) (hwf : i.wf = true) (hp : s.pending = encode i :: rest)
    (hstart : ∀ ts n, exec i (withTurns { s with pending := rest } c ts n) =
      startPattern it (withTurns { s with pending := rest } c ts n)) : MainTurn c s (filledState it s rest) :=
  mainTurn_issue hrun hwf hp fun ts n => (hstart ts n).trans (startPattern_of_no_txfault it hf)

/-- The end of one iteration in the form of the two statements: the pattern has returned `Ok`, or goes on. -/
theorem runSteps_iteration {it : Iteration} {s : State} {w ts : List Turn} {rest : List Word} (hit : it.Laws)
    (hdrives : it.Drives s.cfg) (hinv : s.Inv) (hs : s.sync = .idle) (hf : s.txfault = false)
    (hfill : ∀ c, MainTurn c s (filledState it s rest)) (hw : IterationInTime s.cfg w) (ht : s.turns = w ++ ts) :
    ∃ t, runSteps w.length s = .next t ∧
      t = { s with
        frame := List.replicate s.cfg.leds it.colour, pulse := encodeList s.cfg (List.replicate s.cfg.leds it.colour)
        pvalid := true, wire := s.wire ++ encodeList s.cfg (List.replicate s.cfg.leds it.colour), done := false
        cancel := cancelAfter s.cancel w, pending := rest, run := t.run, responses := t.responses, turns := ts
        tick := s.tick + w.length } ∧
      (t.cancel = true → t.run = .host ∧ t.responses = s.responses ++ [0#32]) ∧
      (t.cancel = false → t.run = it.nextAt ∧ t.responses = s.responses) := by
  have hall := runs_iteration hit hdrives rest s.cancel hs (hinv.quiet hs hf) hf hfill hw
  refine ⟨_, hall.runSteps_eq ht, ?_⟩
  cases cancelAfter s.cancel w
  · exact ⟨rfl, nofun, fun _ => ⟨rfl, rfl⟩⟩
  · exact ⟨rfl, fun _ => ⟨rfl, rfl⟩, nofun⟩

/-- Settles O57: either start is the fill of the colour's iteration. -/
theorem cycleIterationSendsOneFrame : Obligations.CycleIterationSendsOneFrame := by
  intro s c w ts rest hinv hstart hw ht
  have hdrives := cycleIteration_drives s.cfg c
  obtain ⟨hs, hf, hfill⟩ : s.sync = .idle ∧ s.txfault = false ∧
      ∀ b, MainTurn b s (filledState (cycleIteration s.cfg c) s rest) := by
    rcases hstart with ⟨hrun, hp⟩ | ⟨rfl, hrun, hf, hp⟩
    · have hs : s.sync = .idle := by simpa [hrun, placeOk] using hinv.place
      exact ⟨hs, txfault_of_not_host hinv (by simp [hrun]), fun b => mainTurn_fill hdrives rest b hrun hp⟩
    · exact ⟨sync_idle_of_host hinv hrun, hf,
        fun b => mainTurn_start b hrun hf rfl hp fun _ _ => execPatCycle_of_host hrun⟩
  exact runSteps_iteration (cycleIteration_laws s.cfg c) hdrives hinv hs hf hfill hw ht

/-- Settles O58: either start is the fill of the hue's iteration. -/
theorem rainbowIterationSendsOneFrame : Obligations.RainbowIterationSendsOneFrame := by
  intro s hue w ts rest hinv hstart hw ht
  have hdrives := rainbowIteration_drives s.cfg hue
  obtain ⟨hs, hf, hfill⟩ : s.sync = .idle ∧ s.txfault = false ∧
      ∀ b, MainTurn b s (filledState (rainbowIteration s.cfg hue) s rest) := by
    rcases hstart with ⟨hrun, hp⟩ | ⟨rfl, hrun, hf, hp⟩
    · have hs : s.sync = .idle := by simpa [hrun, placeOk] using hinv.place
      exact ⟨hs, txfault_of_not_host hinv (by simp [hrun]), fun b => mainTurn_fill hdrives rest b hrun hp⟩
    · exact ⟨sync_idle_of_host hinv hrun, hf,
        fun b => mainTurn_start b hrun hf rfl hp fun _ _ => execPatRainbow_of_host hrun⟩
  obtain ⟨t, hrun, hshape, hok, hnext⟩ :=
    runSteps_iteration (rainbowIteration_laws s.cfg hue) hdrives hinv hs hf hfill hw ht
  refine ⟨t, hrun, hshape, hok, fun hc => ?_⟩
  obtain ⟨hgo, hresp⟩ := hnext hc
  exact ⟨hresp, nextHue hue, rfl, hgo⟩

end Sys2Proof.Machine
end
